-- ==== Sys2Proof/Word.lean ====
section
/-! DEFINITION. The words of AutoOff-CORE: the command word (R80), the port registers (R22 to R24, `PORT_WIDTH` = 8, D2),
the countdown (R31, `COUNT_WIDTH` = 16, D16), and the numbers of channels (R27), ports (R6) and pins (R10). -/

namespace Sys2Proof

/-- A mux command word: 16 bits, one format and one length (R80). -/
abbrev CmdWord := BitVec 16

/-- One whole port register, `PORT_WIDTH` = 8 bits (R22, R23, R24). -/
abbrev PortReg := BitVec 8

/-- The countdown register, `COUNT_WIDTH` = 16 bits (R31). -/
abbrev CountReg := BitVec 16

/-- A byte, for command words stored as bytes (D40). -/
abbrev Byte := BitVec 8

/-- A channel number, 0 to `NUM_CHANNELS` - 1 = 7 (R27, R83). -/
abbrev Chan := Fin 8

/-- A port number as the 4-bit `port` field names it (R81). Ports at or above `NUM_PORTS` do not exist (R6, R103). -/
abbrev PortNo := Fin 16

/-- A pin index, 0 to `PORT_WIDTH` - 1 = 7; index `i` names bit `i` of the port's registers (R10). -/
abbrev PinIdx := Fin 8

end Sys2Proof
end

