-- ==== Sys2Proof/Syntax.lean ====
section
/-! DEFINITION. The instructions: one constructor for each row of spec/opcode_table.json, six mux commands (R82) and two
events (R91), with the operand types the spec's data model gives them. -/

namespace Sys2Proof

/-- One physical line: a port and a pin index (00_scope.md section 6, "Pin"). -/
structure Pin where
  port : PortNo
  idx : PinIdx
  deriving DecidableEq, Repr, Inhabited

/-- The drive level of TRI.WRITE (R85). The fourth code, `0b11`, is reserved and is no level. -/
inductive DriveLevel where
  | low
  | high
  | highZ
  deriving DecidableEq, Repr

/-- The instructions of AutoOff-CORE. The fields are the operands of R83 to R87; their ranges are exactly the
fields' ranges, so every term is the meaning of one word. -/
inductive Instr where
  /-- `BIND.OUT c, pin, al` (R104). -/
  | bindOut (c : Chan) (pin : Pin) (al : Bool)
  /-- `BIND.TRI c, pin, al` (R106). -/
  | bindTri (c : Chan) (pin : Pin) (al : Bool)
  /-- `BIND.IN c, pin, al, pu` (R108). -/
  | bindIn (c : Chan) (pin : Pin) (al : Bool) (pu : Bool)
  /-- `WRITE c, level` (R111). -/
  | write (c : Chan) (level : Bool)
  /-- `TRI.WRITE c, lvl` (R114). -/
  | triWrite (c : Chan) (lvl : DriveLevel)
  /-- `READ c` (R118). -/
  | read (c : Chan)
  /-- The event TICK, code 0 (R91, R142). -/
  | tick
  /-- The event EDGE, code 1 (R91, R146). -/
  | edge
  deriving DecidableEq, Repr

end Sys2Proof
end

