-- ==== Sys2Proof/Decode.lean ====
section
/-! DEFINITION. Decoding and encoding: the command word's fields (R81, R83), the total decoder with its three faults (R88),
the event codes (R91), the encoder written from the same tables, command words as bytes (D40), and the assembler
syntax (R92). -/

namespace Sys2Proof

/-- What a command word that is no command decodes to (R88, codes 1 to 3 of R202). -/
inductive DecodeFault where
  /-- `F_ILLEGAL_OP`: `op` is `0b110` or `0b111` (R89). -/
  | illegalOp
  /-- `F_RESERVED_FIELD`: a must-be-zero bit is set (R84). -/
  | reservedField
  /-- `F_RESERVED_LEVEL`: TRI.WRITE with `arg = 0b11` (R85). -/
  | reservedLevel
  deriving DecidableEq, Repr

/-- Why bytes are no instruction. -/
inductive DecodeReject where
  /-- The bytes hold a whole command word that decodes to a fault. -/
  | fault (f : DecodeFault)
  /-- Fewer bytes than the two of a command word (R80), or than the one of an event. -/
  | truncated
  /-- An event code other than 0 and 1 (R91). -/
  | unknownEvent
  deriving DecidableEq, Repr

/-- What names an instruction: a command word (R80) or an event code (R91). -/
inductive Code where
  | cmd (w : CmdWord)
  | event (code : BitVec 1)
  deriving DecidableEq, Repr

/-- `w[15:13]` (R81). -/
def opField (w : CmdWord) : BitVec 3 := w.extractLsb' 13 3

/-- `ch = zext(w[12:10])` (R83). -/
def chField (w : CmdWord) : Chan := (w.extractLsb' 10 3).toFin

/-- `port = zext(w[9:6])` (R83). -/
def portField (w : CmdWord) : PortNo := (w.extractLsb' 6 4).toFin

/-- `idx = zext(w[5:3])` (R83). -/
def idxField (w : CmdWord) : PinIdx := (w.extractLsb' 3 3).toFin

/-- The pin a BIND word names. -/
def pinField (w : CmdWord) : Pin := ⟨portField w, idxField w⟩

/-- `al = w[2]` (R83). -/
def alField (w : CmdWord) : Bool := w.getLsbD 2

/-- `arg = w[1:0]` (R83). -/
def argField (w : CmdWord) : BitVec 2 := w.extractLsb' 0 2

/-- The drive level an `arg` names (R85); `0b11` names none. -/
def levelOfArg (arg : BitVec 2) : Option DriveLevel :=
  if arg = 0b00 then some .low
  else if arg = 0b01 then some .high
  else if arg = 0b10 then some .highZ
  else none

/-- `decode(w)` of R88, total on every command word. -/
def decodeWord (w : CmdWord) : Except DecodeFault Instr :=
  if opField w = 0b000 then
    if argField w ≠ 0b00 then .error .reservedField
    else .ok (.bindOut (chField w) (pinField w) (alField w))
  else if opField w = 0b001 then
    if argField w ≠ 0b00 then .error .reservedField
    else .ok (.bindTri (chField w) (pinField w) (alField w))
  else if opField w = 0b010 then
    if w.getLsbD 1 then .error .reservedField
    else .ok (.bindIn (chField w) (pinField w) (alField w) (w.getLsbD 0))
  else if opField w = 0b011 then
    if w.extractLsb' 1 9 ≠ 0 then .error .reservedField
    else .ok (.write (chField w) (w.getLsbD 0))
  else if opField w = 0b100 then
    if w.extractLsb' 2 8 ≠ 0 then .error .reservedField
    else match levelOfArg (argField w) with
      | some lvl => .ok (.triWrite (chField w) lvl)
      | none => .error .reservedLevel
  else if opField w = 0b101 then
    if w.extractLsb' 0 10 ≠ 0 then .error .reservedField
    else .ok (.read (chField w))
  else .error .illegalOp

/-- The event an event code names (R91). -/
def decodeEvent (code : BitVec 1) : Instr := if code = 0 then .tick else .edge

/-- The decoder, total on every code. -/
def decode : Code → Except DecodeFault Instr
  | .cmd w => decodeWord w
  | .event code => .ok (decodeEvent code)

/-- A command word from its six fields (R81): `op<<13 | ch<<10 | port<<6 | idx<<3 | al<<2 | arg`
(95_test_vectors.md). -/
def assemble (op ch : BitVec 3) (port : BitVec 4) (idx : BitVec 3) (al : Bool) (arg : BitVec 2) : CmdWord :=
  (op.zeroExtend 16 <<< 13) ||| (ch.zeroExtend 16 <<< 10) ||| (port.zeroExtend 16 <<< 6) |||
    (idx.zeroExtend 16 <<< 3) ||| ((BitVec.ofBool al).zeroExtend 16 <<< 2) ||| arg.zeroExtend 16

/-- The `ch` field of a channel number. -/
def chBits (c : Chan) : BitVec 3 := BitVec.ofFin c

/-- The `port` field of a port number. -/
def portBits (p : PortNo) : BitVec 4 := BitVec.ofFin p

/-- The `idx` field of a pin index. -/
def idxBits (i : PinIdx) : BitVec 3 := BitVec.ofFin i

/-- The `arg` of a drive level (R85). -/
def argOfLevel : DriveLevel → BitVec 2
  | .low => 0b00
  | .high => 0b01
  | .highZ => 0b10

/-- The encoder: the one code of each instruction, written from the tables of R81, R82, R84 to R87 and R91. -/
def encode : Instr → Code
  | .bindOut c pin al => .cmd (assemble 0b000 (chBits c) (portBits pin.port) (idxBits pin.idx) al 0b00)
  | .bindTri c pin al => .cmd (assemble 0b001 (chBits c) (portBits pin.port) (idxBits pin.idx) al 0b00)
  | .bindIn c pin al pu =>
    .cmd (assemble 0b010 (chBits c) (portBits pin.port) (idxBits pin.idx) al (0#1 ++ BitVec.ofBool pu))
  | .write c level => .cmd (assemble 0b011 (chBits c) 0 0 false (0#1 ++ BitVec.ofBool level))
  | .triWrite c lvl => .cmd (assemble 0b100 (chBits c) 0 0 false (argOfLevel lvl))
  | .read c => .cmd (assemble 0b101 (chBits c) 0 0 false 0b00)
  | .tick => .event 0
  | .edge => .event 1

/-- The command word of an instruction; an event has none, and 0 stands there. -/
def Instr.word (i : Instr) : CmdWord :=
  match encode i with
  | .cmd w => w
  | .event _ => 0

/-- The `match` and `mask` of an operation's row in spec/opcode_table.json, by its `op` (R90); a reserved `op` has no row
(R89). -/
def tableRow (op : BitVec 3) : Option (CmdWord × CmdWord) :=
  if op = 0b000 then some (0x0000, 0xE003)
  else if op = 0b001 then some (0x2000, 0xE003)
  else if op = 0b010 then some (0x4000, 0xE002)
  else if op = 0b011 then some (0x6000, 0xE3FE)
  else if op = 0b100 then some (0x8000, 0xE3FC)
  else if op = 0b101 then some (0xA000, 0xE3FF)
  else none

/-- A command word from two bytes, the less significant first (R62, D40). -/
def wordOfBytes (lo hi : Byte) : CmdWord := hi ++ lo

/-- Command bytes to an instruction and the bytes after it; always exactly two bytes (R80). -/
def decodeBytes : List Byte → Except DecodeReject (Instr × List Byte)
  | lo :: hi :: rest =>
    match decodeWord (wordOfBytes lo hi) with
    | .ok i => .ok (i, rest)
    | .error f => .error (.fault f)
  | _ => .error .truncated

/-- An event byte to an event. DESIGN CHOICE (entry 20): the event code of R91 stands in bit 0 of one byte. -/
def decodeEventBytes : List Byte → Except DecodeReject (Instr × List Byte)
  | b :: rest =>
    if b.toNat < 2 then .ok (decodeEvent (b.extractLsb' 0 1), rest) else .error .unknownEvent
  | [] => .error .truncated

/-- The bytes of an instruction as they are stored (D40, entry 20). -/
def encodeBytes (i : Instr) : List Byte :=
  match encode i with
  | .cmd w => [w.extractLsb' 0 8, w.extractLsb' 8 8]
  | .event code => [code.zeroExtend 8]

/-- The instruction of a row of the opcode table from its bits: the event rows have fewer than a command's 16 bits
(R80, R91). -/
def decodeTableWord (nbits w : Nat) : Option Instr :=
  if nbits ≤ 8 then
    match decodeEventBytes [BitVec.ofNat 8 w] with
    | .ok (i, _) => some i
    | .error _ => none
  else
    match decodeBytes [BitVec.ofNat 8 w, BitVec.ofNat 8 (w / 256)] with
    | .ok (i, _) => some i
    | .error _ => none

/-- `c<n>` (R92). -/
def Instr.asmChan (c : Chan) : String := "c" ++ toString c.val

/-- `p<port>.<idx>` (R92). -/
def Instr.asmPin (pin : Pin) : String := "p" ++ toString pin.port.val ++ "." ++ toString pin.idx.val

/-- `0` or `1` (R92). -/
def Instr.asmBit (b : Bool) : String := if b then "1" else "0"

/-- The assembler syntax of a command (R92); an event is written by its table name (R91). -/
def Instr.asm : Instr → String
  | .bindOut c pin al => "BIND.OUT " ++ asmChan c ++ ", " ++ asmPin pin ++ ", al=" ++ asmBit al
  | .bindTri c pin al => "BIND.TRI " ++ asmChan c ++ ", " ++ asmPin pin ++ ", al=" ++ asmBit al
  | .bindIn c pin al pu =>
    "BIND.IN " ++ asmChan c ++ ", " ++ asmPin pin ++ ", al=" ++ asmBit al ++ ", pu=" ++ asmBit pu
  | .write c level => "WRITE " ++ asmChan c ++ ", " ++ asmBit level
  | .triWrite c .low => "TRI.WRITE " ++ asmChan c ++ ", LOW"
  | .triWrite c .high => "TRI.WRITE " ++ asmChan c ++ ", HIGH"
  | .triWrite c .highZ => "TRI.WRITE " ++ asmChan c ++ ", HIGH_Z"
  | .read c => "READ " ++ asmChan c
  | .tick => "TICK"
  | .edge => "EDGE"

end Sys2Proof
end

