-- ==== Sys2Proof/Config.lean ====
section
/-! DEFINITION. What one implementation fixes: the configuration record of R6, and the model's free values (`draw_bit()` of
R12, and the choice of the next move where nothing else makes it, entries 1 and 7 of the assumption log). -/

namespace Sys2Proof

/-- The external drive on a pin (R25): not driven, pulled hard low, pulled hard high. -/
inductive Drive where
  | z
  | l
  | h
  deriving DecidableEq, Repr, Inhabited

/-- One atomic step that some agent may take: a step of LOOP, a run of TICK or of EDGE (R13, R208), or one of ENV's
two moves (R190). -/
inductive Move where
  /-- LOOP's next atomic step (R160). -/
  | loop
  /-- One run of the tick handler (R142). -/
  | tick
  /-- One run of the button-edge handler (R146). -/
  | edge
  /-- ENV's `Advance` (R186). -/
  | advance
  /-- ENV's `SetExt(p, i, e)` (R190). -/
  | setExt (pin : Pin) (e : Drive)
  deriving DecidableEq, Repr, Inhabited

/-- `LOOP_MODE` (R6): the controller, or a list of command words for standalone mux runs (R123). -/
inductive LoopMode where
  | controller
  | commandList (cmds : List CmdWord)
  deriving DecidableEq, Repr

/-- The configuration record (R6). `PORT_WIDTH`, `NUM_CHANNELS` and `COUNT_WIDTH` are the widths of `PortReg`, `Chan` and
`CountReg`. No step writes it (R46). -/
structure Config where
  /-- `NUM_PORTS`, OPEN, 1 to 16. -/
  numPorts : Nat
  /-- `POWER_ON_TIME`, ticks for a full arm. -/
  powerOnTime : Nat
  /-- `PENDING_OFF_TICKS`, ticks for the short arm. -/
  pendingOffTicks : Nat
  /-- `DEBOUNCE_MS`. -/
  debounceMs : Nat
  /-- `SAMPLE_WAIT_MS`, independent of `PENDING_OFF_TICKS` (R9). -/
  sampleWaitMs : Nat
  /-- `TICK_PERIOD_MS`. -/
  tickPeriodMs : Nat
  /-- `TICK_PHASE_MS`, OPEN, 1 to `TICK_PERIOD_MS`. -/
  tickPhaseMs : Nat
  /-- `WAIT_SLACK_MS`, OPEN, how late a wait may end (R166). -/
  waitSlackMs : Nat
  /-- `AUX_FOLLOWS_RELAYS`, OPEN (C1, R198). -/
  auxFollowsRelays : Bool
  /-- `AL_RELAY1`, OPEN. -/
  alRelay1 : Bool
  /-- `AL_RELAY2`, OPEN. -/
  alRelay2 : Bool
  /-- `AL_AUX`, OPEN. -/
  alAux : Bool
  /-- `AL_IND`, OPEN. -/
  alInd : Bool
  /-- `PIN_BUTTON`, OPEN. -/
  pinButton : Pin
  /-- `PIN_RELAY1`, OPEN. -/
  pinRelay1 : Pin
  /-- `PIN_RELAY2`, OPEN. -/
  pinRelay2 : Pin
  /-- `PIN_AUX`, OPEN. -/
  pinAux : Pin
  /-- `PIN_IND`, OPEN. -/
  pinInd : Pin
  /-- `LOOP_MODE`. -/
  loopMode : LoopMode
  deriving DecidableEq, Repr

/-- The configuration of `State.reset`. The closed parameters and the defaults are R6's. DESIGN CHOICE, unsafe (entry 4):
the OPEN ones are those of the spec's own configuration Cfg-T (95_test_vectors.md part 2.10). -/
def Config.default : Config where
  numPorts := 1
  powerOnTime := 18000
  pendingOffTicks := 2
  debounceMs := 100
  sampleWaitMs := 1000
  tickPeriodMs := 1000
  tickPhaseMs := 1000
  waitSlackMs := 0
  auxFollowsRelays := false
  alRelay1 := false
  alRelay2 := false
  alAux := false
  alInd := false
  pinButton := ⟨0, 0⟩
  pinRelay1 := ⟨0, 1⟩
  pinRelay2 := ⟨0, 2⟩
  pinAux := ⟨0, 3⟩
  pinInd := ⟨0, 4⟩
  loopMode := .controller

/-- `AL_BUTTON` = 1, fixed (R7). -/
def Config.alButton : Bool := true

/-- `PU_BUTTON` = 1, fixed (R7). -/
def Config.puButton : Bool := true

/-- The command list of `LOOP_MODE`, empty in the controller configuration (R46, R123). -/
def Config.cmds (cfg : Config) : List CmdWord :=
  match cfg.loopMode with
  | .controller => []
  | .commandList cmds => cmds

/-- FREE VALUE (entry 7): the n-th fresh bit of `draw_bit()` (R12). It has no body that a proof can see, so a claim about a
draw holds for both bits. -/
opaque Config.freeBit : Nat → Bool

/-- FREE VALUE (entry 1): the n-th choice of the next move where `State.sched` names none. -/
opaque Config.freeMove : Nat → Move

end Sys2Proof
end

