-- ==== Sys2Proof/WellFormed.lean ====
section
/-! DEFINITION. The static checks: a configuration is valid (R7), and an instruction names a pin that exists in a
configuration (R28, R103). The field ranges of R83 hold by the operand types. -/

namespace Sys2Proof

/-- The pin exists: its port is below `NUM_PORTS` (its index is below `PORT_WIDTH` by its type). -/
def Config.pinExists (cfg : Config) (pin : Pin) : Bool := decide (pin.port.val < cfg.numPorts)

/-- The five lines, button first (R6, R31). -/
def Config.lines (cfg : Config) : List Pin :=
  [cfg.pinButton, cfg.pinRelay1, cfg.pinRelay2, cfg.pinAux, cfg.pinInd]

/-- R7: `1 <= NUM_PORTS <= 16`. -/
def Config.portsOk (cfg : Config) : Bool := decide (1 ≤ cfg.numPorts) && decide (cfg.numPorts ≤ 16)

/-- R7: each `PIN_*` is in range. -/
def Config.pinsOk (cfg : Config) : Bool := cfg.lines.all cfg.pinExists

/-- R7: the five `PIN_*` are pairwise distinct. -/
def Config.pinsDistinct (cfg : Config) : Bool := decide cfg.lines.Nodup

/-- R7: both arm constants fit the countdown. -/
def Config.armsOk (cfg : Config) : Bool :=
  decide (cfg.powerOnTime ≤ 2 ^ 16 - 1) && decide (cfg.pendingOffTicks ≤ 2 ^ 16 - 1)

/-- R7: `1 <= TICK_PHASE_MS <= TICK_PERIOD_MS` and `TICK_PERIOD_MS >= 1`. -/
def Config.ticksOk (cfg : Config) : Bool :=
  decide (1 ≤ cfg.tickPhaseMs) && decide (cfg.tickPhaseMs ≤ cfg.tickPeriodMs) && decide (1 ≤ cfg.tickPeriodMs)

/-- R7: a configuration is valid only when all of these hold. The model has no run for another (U12). -/
def Config.valid (cfg : Config) : Bool :=
  cfg.portsOk && cfg.pinsOk && cfg.pinsDistinct && cfg.armsOk && cfg.ticksOk

/-- The instruction is well formed in the configuration: a BIND names an existing pin (R28, R103). -/
def Instr.wf (cfg : Config) : Instr → Bool
  | .bindOut _ pin _ => cfg.pinExists pin
  | .bindTri _ pin _ => cfg.pinExists pin
  | .bindIn _ pin _ _ => cfg.pinExists pin
  | .write _ _ => true
  | .triWrite _ _ => true
  | .read _ => true
  | .tick => true
  | .edge => true

end Sys2Proof
end

