-- ==== Sys2Proof/Machine/State.lean ====
section
/-! DEFINITION. The state record of R20 as plain data, the reasons a step can stop, and the state right after reset (R49).
The model's own fields are `cfg`, `sched`, `picks` and `draws` (entries 1, 3, 7). -/

namespace Sys2Proof.Machine

/-- The kind of a channel (R27). -/
inductive Kind where
  | out
  | tri
  | inp
  deriving DecidableEq, Repr

/-- A binding record of the channel table (R27). `pu` is meaningful only for the kind `inp`. -/
structure Binding where
  kind : Kind
  pin : Pin
  al : Bool
  pu : Bool
  deriving DecidableEq, Repr

/-- `triLast[c]` (R29): the last drive level requested of a tri-state channel. -/
inductive TriLast where
  | none
  | low
  | high
  | highZ
  deriving DecidableEq, Repr

/-- The loop phases (R34, R162), and the phases of the command-list mode (R123). -/
inductive Phase where
  | boot0 | boot1 | boot2 | boot3 | boot4 | boot5
  | s0 | s1
  | a1 | a2 | a3 | a3x | a4 | a5 | a5w | a6
  | b1 | b2 | b3 | b3w | b4 | b5 | b5w | b6 | b7 | b8 | b9 | b9w | b10
  | z0 | z1 | z2 | z3 | z3x | z4
  | cmd (k : Nat)
  | done
  deriving DecidableEq, Repr

/-- `cip` (R35): no command in progress, or the word, the index of its next micro-step, and the register value read by
the pending read-modify-write. -/
inductive Cip where
  | idle
  | busy (word : CmdWord) (step : Nat) (t : PortReg)
  deriving DecidableEq, Repr

/-- The fault codes of `FAULT` (R45, R202). -/
inductive FaultCode where
  | none
  | illegalOp
  | reservedField
  | reservedLevel
  | unboundChannel
  | channelRebind
  | pinRange
  | pinOwned
  | wrongKind
  | contention
  deriving DecidableEq, Repr

/-- The state of AutoOff-CORE (R20). -/
structure State where
  /-- The configuration record (R6). It is not the spec's state (R46): no step writes it. -/
  cfg : Config
  /-- `DIR[p]` (R22). Entries at or above `NUM_PORTS` stand for no register (entry 16). -/
  dir : Vector PortReg 16
  /-- `OUT[p]` (R23). -/
  out : Vector PortReg 16
  /-- `EXT[p][i]` (R25). -/
  ext : Vector (Vector Drive 8) 16
  /-- `chan[c]` (R27). -/
  chan : Vector (Option Binding) 8
  /-- `triLast[c]` (R29). -/
  triLast : Vector TriLast 8
  /-- `countdown` (R31). -/
  countdown : CountReg
  /-- `pressed` (R32). -/
  pressed : Bool
  /-- `on` (R33). -/
  on : Bool
  /-- `lp` (R34). -/
  lp : Phase
  /-- `cip` (R35). -/
  cip : Cip
  /-- `waitUntil` (R36). -/
  waitUntil : Nat
  /-- `polled` (R37). -/
  polled : Bool
  /-- `rd_LOOP` (R38). -/
  rdLoop : Bool
  /-- `rd_EDGE` (R38). -/
  rdEdge : Bool
  /-- `ien` (R39). -/
  ien : Bool
  /-- `tickPending` (R40). -/
  tickPending : Bool
  /-- `edgePending` (R41). -/
  edgePending : Nat
  /-- `btnLast` (R42). -/
  btnLast : Bool
  /-- `now` (R43). -/
  now : Nat
  /-- `nextTick` (R44). -/
  nextTick : Nat
  /-- `FAULT` (R45). -/
  fault : FaultCode
  /-- `FAULT_WORD` (R52). -/
  faultWord : CmdWord
  /-- `FAULT_PIN` (R52). -/
  faultPin : Option Pin
  /-- The model's own: the moves chosen for the next steps, the next one first (entry 1). -/
  sched : List Move
  /-- The model's own: how many moves `Config.freeMove` has chosen (entry 1). -/
  picks : Nat
  /-- The model's own: how many bits `Config.freeBit` has given (entry 7). -/
  draws : Nat
  deriving DecidableEq, Repr

/-- Why a step stops the model. These are not the architectural fault codes: a step that raises one of those answers a next
state with `FAULT` written (R201). -/
inductive Fault where
  /-- Raised by every meaning and by `step` when `FAULT ≠ 0`: no agent has a step (R201, U9). Safe. -/
  | halted
  /-- Raised by a move's operation in a state in which the spec gives that move no step: TICK or EDGE not pending (R142,
  R146), LOOP waiting or gated (R160), Advance blocked (R186), a pin that does not exist. `step` never runs such a
  move. Safe (entry 12). -/
  | notEnabled
  /-- Raised by a command's meaning when `cip` holds another command, a step index the command does not have, or a
  channel whose binding is not there any more; no run from reset meets it. Safe (entry 12). -/
  | cipConflict
  /-- Raised by `step` when no agent has a step although `FAULT = 0`; no run of a valid configuration from reset meets
  it. Safe (entry 12). -/
  | noMove
  deriving DecidableEq, Repr

/-- Why a step is refused. -/
inductive Refusal where
  /-- Raised by an arm of `exec` whose instruction has no meaning yet. Safe. -/
  | notModelled (mnemonic : String)
  /-- Raised by `step` on an invalid configuration: the model has no run for one (R7, U12). Safe. -/
  | invalidConfig
  deriving DecidableEq, Repr

/-- What one atomic step answers. -/
abbrev Result := Host.Outcome State Fault Refusal

/-- The phase LOOP starts at (R49, R123, R230). -/
def State.resetPhase (cfg : Config) : Phase :=
  match cfg.loopMode with
  | .controller => .boot0
  | .commandList [] => .done
  | .commandList (_ :: _) => .cmd 0

/-- The state at reset (R49) for a configuration, the external drives at launch (R25, U11), and the moves chosen for the first
steps. DESIGN CHOICE, unsafe (entry 6): `rd_LOOP` and `rd_EDGE`, which the spec leaves unspecified, are 0. -/
def State.resetWith (cfg : Config) (ext : Vector (Vector Drive 8) 16) (sched : List Move) : State where
  cfg := cfg
  dir := Vector.replicate 16 0x00#8
  out := Vector.replicate 16 0x00#8
  ext := ext
  chan := Vector.replicate 8 none
  triLast := Vector.replicate 8 .none
  countdown := 0
  pressed := false
  on := false
  lp := State.resetPhase cfg
  cip := .idle
  waitUntil := 0
  polled := false
  rdLoop := false
  rdEdge := false
  ien := false
  tickPending := false
  edgePending := 0
  btnLast := false
  now := 0
  nextTick := cfg.tickPhaseMs
  fault := .none
  faultWord := 0x0000
  faultPin := none
  sched := sched
  picks := 0
  draws := 0

/-- No pin driven from outside. -/
def State.noDrive : Vector (Vector Drive 8) 16 := Vector.replicate 16 (Vector.replicate 8 .z)

/-- The machine right after reset, in the configuration of entry 4, with no external drive (DESIGN CHOICE, unsafe, entry 5)
and no move chosen (entry 1). -/
def State.reset : State := State.resetWith Config.default State.noDrive []

end Sys2Proof.Machine
end

