-- ==== Sys2Proof/Machine/Ops.lean ====
section
/-! DEFINITION. The named operations: the register and table accessors, the one-bit register update (R102), the line level
(R120), a fresh draw (R12), raising a fault (R201), and the epilogue of every atomic step (R204): the contention check (R121) and the
edge detector (R145). -/

namespace Sys2Proof.Machine

/-! The registers and tables: every read and write goes through these. -/

/-- `DIR[p]` (R22). -/
def State.dirOf (s : State) (p : PortNo) : PortReg := s.dir[p]

/-- `OUT[p]` (R23). -/
def State.outOf (s : State) (p : PortNo) : PortReg := s.out[p]

/-- `EXT[p][i]` (R25). -/
def State.extOf (s : State) (pin : Pin) : Drive := s.ext[pin.port][pin.idx]

/-- `chan[c]` (R27). -/
def State.chanOf (s : State) (c : Chan) : Option Binding := s.chan[c]

/-- `triLast[c]` (R29). -/
def State.triOf (s : State) (c : Chan) : TriLast := s.triLast[c]

/-- `DIR[p] <- v` (R11). -/
def State.setDir (s : State) (p : PortNo) (v : PortReg) : State := { s with dir := s.dir.set p.val v p.isLt }

/-- `OUT[p] <- v` (R11). -/
def State.setOut (s : State) (p : PortNo) (v : PortReg) : State := { s with out := s.out.set p.val v p.isLt }

/-- `EXT[p][i] <- e` (R190). -/
def State.setExt (s : State) (pin : Pin) (e : Drive) : State :=
  { s with ext := s.ext.set pin.port.val (s.ext[pin.port].set pin.idx.val e pin.idx.isLt) pin.port.isLt }

/-- `chan[c] <- b` (R27). No operation unbinds a channel (R28). -/
def State.setChan (s : State) (c : Chan) (b : Binding) : State :=
  { s with chan := s.chan.set c.val (some b) c.isLt }

/-- `triLast[c] <- l` (R29). -/
def State.setTri (s : State) (c : Chan) (l : TriLast) : State :=
  { s with triLast := s.triLast.set c.val l c.isLt }

/-- `cip <- v` (R35). -/
def State.setCip (s : State) (v : Cip) : State := { s with cip := v }

/-- `lp <- phase` (R11). -/
def State.goto (s : State) (ph : Phase) : State := { s with lp := ph }

/-! Bits of a port register. -/

/-- `bit(b, i)` of R11: `b` zero-extended to a port register and shifted to bit `i`. -/
def bitAt (b : Bool) (i : PinIdx) : PortReg := (BitVec.ofBool b).zeroExtend 8 <<< i.val

/-- `(t & ~bit(1, i)) | bit(b, i)` (R102): one bit changed, every other bit kept. -/
def setBit (t : PortReg) (i : PinIdx) (b : Bool) : PortReg := (t &&& ~~~(bitAt true i)) ||| bitAt b i

/-- `v[i]` (R10). -/
def bitOf (v : PortReg) (i : PinIdx) : Bool := v.getLsbD i.val

/-- `DIR[p][i]`: the pin is driven (R22). -/
def State.dirBit (s : State) (pin : Pin) : Bool := bitOf (s.dirOf pin.port) pin.idx

/-- `OUT[p][i]`: the driven level, or the pull-up enable of a floating pin (R23). -/
def State.outBit (s : State) (pin : Pin) : Bool := bitOf (s.outOf pin.port) pin.idx

/-! The line level. -/

/-- The level of a pin where R120 determines it; `none` where R120 returns a draw. -/
def State.lineLevel (s : State) (pin : Pin) : Option Bool :=
  match s.dirBit pin, s.extOf pin with
  | true, .z => some (s.outBit pin)
  | true, .h => if s.outBit pin then some true else none
  | true, .l => if s.outBit pin then none else some false
  | false, .l => some false
  | false, .h => some true
  | false, .z => if s.outBit pin then some true else none

/-- One evaluation of `level(p, i)` (R120), with a fresh bit where the level is not determined (R12, entry 7). -/
def State.sample (s : State) (pin : Pin) : Bool × State :=
  match s.lineLevel pin with
  | some b => (b, s)
  | none => (Config.freeBit s.draws, { s with draws := s.draws + 1 })

/-- The view `IN[p]` (R24): for each bit the level, `none` where a read of it is a draw. Reading it changes nothing
(R65). -/
def State.inOf (s : State) (p : PortNo) : Vector (Option Bool) 8 := Vector.ofFn fun i => s.lineLevel ⟨p, i⟩

/-! Faults. -/

/-- The number of a fault code (R202). -/
def FaultCode.code : FaultCode → Nat
  | .none => 0
  | .illegalOp => 1
  | .reservedField => 2
  | .reservedLevel => 3
  | .unboundChannel => 4
  | .channelRebind => 5
  | .pinRange => 6
  | .pinOwned => 7
  | .wrongKind => 8
  | .contention => 9

/-- The fault code of a decode fault (R88, R202). -/
def FaultCode.ofDecode : DecodeFault → FaultCode
  | .illegalOp => .illegalOp
  | .reservedField => .reservedField
  | .reservedLevel => .reservedLevel

/-- `raise Fault(code)` (R201): the first fault is recorded with its word and pin (R52) and never cleared (R45). -/
def State.raise (s : State) (code : FaultCode) (word : CmdWord) (pin : Option Pin) : State :=
  if s.fault = .none then { s with fault := code, faultWord := word, faultPin := pin } else s

/-- A step of an agent: while `FAULT ≠ 0` there is none (R201). -/
def running (s : State) (o : Result) : Result := if s.fault = .none then o else .fault .halted

/-! The epilogue of every atomic step. -/

/-- The pin is driven against its external drive (R121). -/
def State.contends (s : State) (pin : Pin) : Bool :=
  s.dirBit pin &&
    match s.extOf pin with
    | .z => false
    | .l => s.outBit pin
    | .h => !s.outBit pin

/-- Every pin that the 4-bit port field can name, lowest port first, then lowest index (R52). -/
def allPins : List Pin := (List.finRange 16).flatMap fun p => (List.finRange 8).map fun i => ⟨p, i⟩

/-- The contended pin of the lowest port, then the lowest index, among the pins that exist (R121, R52). -/
def State.contendedPin (s : State) : Option Pin :=
  allPins.find? fun pin => s.cfg.pinExists pin && s.contends pin

/-- The edge detector (R145): while interrupts are enabled, each change of the button line's level is counted. -/
def State.edgeDetect (s : State) : State :=
  if s.ien then
    let v := s.sample s.cfg.pinButton
    if v.1 = v.2.btnLast then v.2
    else { v.2 with edgePending := v.2.edgePending + 1, btnLast := v.1 }
  else s

/-- The epilogue (R204): the contention check, and if it does not fault, the edge detector. A step that has raised a
command fault has no epilogue (R201, entry 9). -/
def State.epilogue (s : State) : State :=
  if s.fault = .none then
    match s.contendedPin with
    | some pin => s.raise .contention 0x0000 (some pin)
    | none => s.edgeDetect
  else s

end Sys2Proof.Machine
end

