-- ==== Sys2Proof/Machine/Operands.lean ====
section
/-! DEFINITION. The operand forms of the commands: the active-low translation (R111, R118), the drive levels (R85, R114), the
channel check of WRITE, TRI.WRITE and READ (R101), the bind check (R103), the micro-step a command is at (R100), and the
observables made from them (R50). -/

namespace Sys2Proof.Machine

/-- `logical ^ al`, and `physical ^ al` back (00_scope.md section 6, "Active-low"). -/
def activeLow (level al : Bool) : Bool := level ^^ al

/-- The logical level TRI.WRITE writes to `OUT` (R114): `lvl == HIGH`, and LOW for HIGH_Z (R115). -/
def levelWritten : DriveLevel → Bool
  | .low => false
  | .high => true
  | .highZ => false

/-- The `DIR` bit TRI.WRITE writes (R114): driven for LOW and HIGH, floating for HIGH_Z. -/
def levelDrives : DriveLevel → Bool
  | .low => true
  | .high => true
  | .highZ => false

/-- The level as `triLast` records it (R29). -/
def TriLast.ofLevel : DriveLevel → TriLast
  | .low => .low
  | .high => .high
  | .highZ => .highZ

/-- A command fault: its code, and the pin the command names or resolves (R52, R202). -/
structure CmdFault where
  code : FaultCode
  pin : Option Pin
  deriving DecidableEq, Repr

/-- `chk(c, K)` of R101; each command's kind set has one kind. -/
def State.chk (s : State) (c : Chan) (k : Kind) : Except CmdFault Binding :=
  match s.chanOf c with
  | none => .error ⟨.unboundChannel, none⟩
  | some b => if b.kind = k then .ok b else .error ⟨.wrongKind, some b.pin⟩

/-- Some channel other than `c` holds the pin (R103, check 3). -/
def State.pinOwned (s : State) (c : Chan) (pin : Pin) : Bool :=
  (List.finRange 8).any fun c' =>
    decide (c' ≠ c) && match s.chanOf c' with
      | none => false
      | some b => decide (b.pin = pin)

/-- `bindchk(c, port, idx)` of R103, in its order; a pin index is in range by its type. -/
def State.bindchk (s : State) (c : Chan) (pin : Pin) : Option FaultCode :=
  if s.chanOf c ≠ none then some .channelRebind
  else if s.cfg.pinExists pin = false then some .pinRange
  else if s.pinOwned c pin then some .pinOwned
  else none

/-- The micro-step the command word `w` is at, and the register value its read-modify-write has read (R35, R100):
micro-step 0 when no command is in progress. -/
def State.microStep (s : State) (w : CmdWord) : Option (Nat × PortReg) :=
  match s.cip with
  | .idle => some (0, 0)
  | .busy w' k t => if w' = w then some (k, t) else none

/-- The logical level of a channel (R50); the inner `none` is HIGH_Z, the outer one a channel with no level. -/
def State.logicalLevel (s : State) (c : Chan) : Option (Option Bool) :=
  match s.chanOf c with
  | none => none
  | some b =>
    match b.kind with
    | .inp => none
    | .out => some (if s.dirBit b.pin then some (activeLow (s.outBit b.pin) b.al) else none)
    | .tri => some (if s.dirBit b.pin then some (activeLow (s.outBit b.pin) b.al) else none)

end Sys2Proof.Machine
end

