-- ==== Sys2Proof/Machine/Flags.lean ====
section
/-! DEFINITION. The flags. The block has no condition codes (R47): its one-bit flags are `pressed`, `on`, `polled`, `ien` and
`tickPending`. Here are the updates of them that more than one step makes, the countdown's two updates (R142, R172), and the
conceptual states derived from `on` and `lp` (R161). -/

namespace Sys2Proof.Machine

/-- `pressed <- 1` if the level read is the active one (R146): EDGE sets the latch and never clears it. -/
def State.latchPress (s : State) (active : Bool) : State := { s with pressed := s.pressed || active }

/-- `pressed <- 0` (R167), then the successor phase: LOOP's clear at the end of a hold. -/
def State.clearPress (s : State) (next : Phase) : State := { s with pressed := false, lp := next }

/-- The tick handler's saturating decrement (R142). -/
def decrement (n : CountReg) : CountReg := if 0 < n then n - 1 else n

/-- An arm of the countdown (00_scope.md section 6, "Arm"): the constant as a countdown value. R7 bounds it. -/
def armValue (ticks : Nat) : CountReg := BitVec.ofNat 16 ticks

/-- The conceptual states (R161). -/
inductive Mode where
  | off
  | on
  | onPendingOff
  deriving DecidableEq, Repr

/-- `lp ∈ {B1, B2, B3, B3w, B4, B5, B5w, B6}` (R161). -/
def Phase.pendingOff : Phase → Bool
  | .b1 | .b2 | .b3 | .b3w | .b4 | .b5 | .b5w | .b6 => true
  | _ => false

/-- The conceptual state of a state (R161). -/
def State.mode (s : State) : Mode :=
  if s.on = false then .off else if s.lp.pendingOff then .onPendingOff else .on

end Sys2Proof.Machine
end

