-- ==== Sys2Proof/Machine/Bind.lean ====
section
/-! DEFINITION. The meanings of the construction commands BIND.OUT, BIND.TRI and BIND.IN (R103 to R110), one micro-step at a
time (R100, entry 8). -/

namespace Sys2Proof.Machine

/-- `μ0` of a BIND after the checks (R104): the binding is written and the direction register read. -/
def State.bindStart (s : State) (w : CmdWord) (c : Chan) (b : Binding) : State :=
  (s.setChan c b).setCip (.busy w 1 (s.dirOf b.pin.port))

/-- BIND.OUT (R104, R105): `OUT` is not written. -/
def execBindOut (c : Chan) (pin : Pin) (al : Bool) (s : State) : Result :=
  running s <|
    let w := (Instr.bindOut c pin al).word
    match s.microStep w with
    | some (0, _) =>
      match s.bindchk c pin with
      | some code => .next (s.raise code w (some pin))
      | none => .next (s.bindStart w c ⟨.out, pin, al, false⟩)
    | some (1, t) => .next ((s.setDir pin.port (setBit t pin.idx true)).setCip .idle)
    | _ => .fault .cipConflict

/-- BIND.TRI (R106, R107): as BIND.OUT, and `triLast` is NONE. -/
def execBindTri (c : Chan) (pin : Pin) (al : Bool) (s : State) : Result :=
  running s <|
    let w := (Instr.bindTri c pin al).word
    match s.microStep w with
    | some (0, _) =>
      match s.bindchk c pin with
      | some code => .next (s.raise code w (some pin))
      | none => .next ((s.bindStart w c ⟨.tri, pin, al, false⟩).setTri c .none)
    | some (1, t) => .next ((s.setDir pin.port (setBit t pin.idx true)).setCip .idle)
    | _ => .fault .cipConflict

/-- BIND.IN (R108, R109): the direction is made "read" first, then the pull-up bit is written, physical 1 whatever `al`
is; without a pull-up request `OUT` is left alone (D13). -/
def execBindIn (c : Chan) (pin : Pin) (al pu : Bool) (s : State) : Result :=
  running s <|
    let w := (Instr.bindIn c pin al pu).word
    match s.microStep w with
    | some (0, _) =>
      match s.bindchk c pin with
      | some code => .next (s.raise code w (some pin))
      | none => .next (s.bindStart w c ⟨.inp, pin, al, pu⟩)
    | some (1, t) =>
      .next ((s.setDir pin.port (setBit t pin.idx false)).setCip (if pu then .busy w 2 t else .idle))
    | some (2, _) =>
      if pu then .next (s.setCip (.busy w 3 (s.outOf pin.port))) else .fault .cipConflict
    | some (3, t) =>
      if pu then .next ((s.setOut pin.port (setBit t pin.idx true)).setCip .idle) else .fault .cipConflict
    | _ => .fault .cipConflict

end Sys2Proof.Machine
end

