-- ==== Sys2Proof/Machine/Drive.lean ====
section
/-! DEFINITION. The meanings of WRITE (R111 to R113) and TRI.WRITE (R114 to R117), one micro-step at a time (R100, entry 8). After
`μ0` a micro-step takes the pin and the polarity from the channel's binding, which is immutable (R28, entry 17). -/

namespace Sys2Proof.Machine

/-- WRITE (R111): the `OUT` bit becomes `level ^ al`. -/
def execWrite (c : Chan) (level : Bool) (s : State) : Result :=
  running s <|
    let w := (Instr.write c level).word
    match s.microStep w, s.chk c .out with
    | some (0, _), .error f => .next (s.raise f.code w f.pin)
    | some (0, _), .ok b => .next (s.setCip (.busy w 1 (s.outOf b.pin.port)))
    | some (1, t), .ok b =>
      .next ((s.setOut b.pin.port (setBit t b.pin.idx (activeLow level b.al))).setCip .idle)
    | _, _ => .fault .cipConflict

/-- TRI.WRITE (R114): the direction bit and `triLast` change in one micro-step, then the `OUT` bit. -/
def execTriWrite (c : Chan) (lvl : DriveLevel) (s : State) : Result :=
  running s <|
    let w := (Instr.triWrite c lvl).word
    match s.microStep w, s.chk c .tri with
    | some (0, _), .error f => .next (s.raise f.code w f.pin)
    | some (0, _), .ok b => .next (s.setCip (.busy w 1 (s.dirOf b.pin.port)))
    | some (1, t), .ok b =>
      .next (((s.setDir b.pin.port (setBit t b.pin.idx (levelDrives lvl))).setTri c (TriLast.ofLevel lvl)).setCip
        (.busy w 2 t))
    | some (2, _), .ok b => .next (s.setCip (.busy w 3 (s.outOf b.pin.port)))
    | some (3, t), .ok b =>
      .next ((s.setOut b.pin.port (setBit t b.pin.idx (activeLow (levelWritten lvl) b.al))).setCip .idle)
    | _, _ => .fault .cipConflict

end Sys2Proof.Machine
end

