-- ==== Sys2Proof/Machine/Sense.lean ====
section
/-! DEFINITION. Reading an input channel, for both issuers (R100), and the meaning of READ (R118, R119). -/

namespace Sys2Proof.Machine

/-- The body of READ for either issuer (R118): the channel check, then one evaluation of the line level (R120), translated.
The answer is the logical level and the state with the draw counted. -/
def State.readChannel (s : State) (c : Chan) : Except CmdFault (Bool × State) :=
  match s.chk c .inp with
  | .error f => .error f
  | .ok b => .ok (activeLow (s.sample b.pin).1 b.al, (s.sample b.pin).2)

/-- READ issued by LOOP (R118): one atomic step that changes only `rd_LOOP`. -/
def execRead (c : Chan) (s : State) : Result :=
  running s <|
    let w := (Instr.read c).word
    match s.microStep w, s.readChannel c with
    | some (0, _), .error f => .next (s.raise f.code w f.pin)
    | some (0, _), .ok v => .next { v.2 with rdLoop := v.1, cip := .idle }
    | _, _ => .fault .cipConflict

end Sys2Proof.Machine
end

