-- ==== Sys2Proof/Machine/Events.lean ====
section
/-! DEFINITION. The meanings of the two events, each one atomic step (R208): the tick handler (R142, R143) and the button-edge
handler (R146 to R149). Entering a handler saves nothing and ending it restores nothing (R207, R209): `lp`, `cip` and
`waitUntil` are left as they are. -/

namespace Sys2Proof.Machine

/-- TICK (R142): enabled when pending; the saturating decrement and nothing else. -/
def execTick (s : State) : Result :=
  running s <|
    if s.tickPending then .next { s with tickPending := false, countdown := decrement s.countdown }
    else .fault .notEnabled

/-- The channel of the button (R30). -/
def buttonChan : Chan := 0

/-- EDGE (R146): enabled when an edge is pending; one pending edge is taken, `READ c0` is executed, and the latch is set on
the active level. A fault of the READ leaves every other element as before the step (R201, entry 10). -/
def execEdge (s : State) : Result :=
  running s <|
    if s.edgePending = 0 then .fault .notEnabled
    else
      match s.readChannel buttonChan with
      | .error f => .next (s.raise f.code (Instr.read buttonChan).word f.pin)
      | .ok v =>
        .next (State.latchPress { v.2 with edgePending := v.2.edgePending - 1, rdEdge := v.1 } v.1)

end Sys2Proof.Machine
end

