-- ==== Sys2Proof/Machine/Dispatch.lean ====
section
/-! DEFINITION. One atomic step of an instruction: one arm for each constructor of `Instr`. -/

namespace Sys2Proof.Machine

def exec (i : Instr) (s : State) : Host.Outcome State Fault Refusal :=
  match i with
  | .bindOut c pin al => Sys2Proof.Machine.execBindOut c pin al s
  | .bindTri c pin al => Sys2Proof.Machine.execBindTri c pin al s
  | .bindIn c pin al pu => Sys2Proof.Machine.execBindIn c pin al pu s
  | .write c level => Sys2Proof.Machine.execWrite c level s
  | .triWrite c lvl => Sys2Proof.Machine.execTriWrite c lvl s
  | .read c => Sys2Proof.Machine.execRead c s
  | .tick => Sys2Proof.Machine.execTick s
  | .edge => Sys2Proof.Machine.execEdge s

end Sys2Proof.Machine
end

