-- ==== Sys2Proof/Machine/Loop.lean ====
section
/-! DEFINITION. LOOP, the poll-loop sequencer (R160 to R183): the command each phase issues (R94, R162, R231), the phases
that are one atomic step, the timed waits (R166), the boot (R231, R232), and the command-list mode (R123). -/

namespace Sys2Proof.Machine

/-! The command words of the controller (R94), encoded from the configuration. -/

/-- The bind of one of the four output lines (R30, R231). -/
def bindOutWord (c : Chan) (pin : Pin) (al : Bool) : CmdWord := (Instr.bindOut c pin al).word

/-- The command word a phase issues, where it issues one (R162). `A3X` and `Z3X` issue theirs only with
`AUX_FOLLOWS_RELAYS` (R172, R182). -/
def phaseWord (cfg : Config) : Phase → Option CmdWord
  | .boot0 => some (Instr.bindIn 0 cfg.pinButton Config.alButton Config.puButton).word
  | .boot1 => some (bindOutWord 1 cfg.pinRelay1 cfg.alRelay1)
  | .boot2 => some (bindOutWord 2 cfg.pinRelay2 cfg.alRelay2)
  | .boot3 => some (bindOutWord 3 cfg.pinAux cfg.alAux)
  | .boot4 => some (bindOutWord 4 cfg.pinInd cfg.alInd)
  | .a1 => some (Instr.write 4 true).word
  | .a2 => some (Instr.write 1 true).word
  | .a3 => some (Instr.write 2 true).word
  | .a3x => if cfg.auxFollowsRelays then some (Instr.write 3 true).word else none
  | .b1 => some (Instr.write 4 false).word
  | .b7 => some (Instr.write 4 true).word
  | .z1 => some (Instr.write 4 false).word
  | .z2 => some (Instr.write 1 false).word
  | .z3 => some (Instr.write 2 false).word
  | .z3x => if cfg.auxFollowsRelays then some (Instr.write 3 false).word else none
  | .cmd k => cfg.cmds[k]?
  | _ => none

/-- The phase after a command phase (R162, R123): the skipped phases take no step. Any other phase is its own. -/
def nextPhase (cfg : Config) : Phase → Phase
  | .boot0 => .boot1
  | .boot1 => .boot2
  | .boot2 => .boot3
  | .boot3 => .boot4
  | .boot4 => .boot5
  | .a1 => .a2
  | .a2 => .a3
  | .a3 => if cfg.auxFollowsRelays then .a3x else .a4
  | .a3x => .a4
  | .b1 => .b2
  | .b7 => .b8
  | .z1 => .z2
  | .z2 => .z3
  | .z3 => if cfg.auxFollowsRelays then .z3x else .z4
  | .z3x => .z4
  | .cmd k => if k + 1 < cfg.cmds.length then .cmd (k + 1) else .done
  | ph => ph

/-- The wait phases `Xw` (R166). -/
def Phase.isWait : Phase → Bool
  | .a5w | .b3w | .b5w | .b9w => true
  | _ => false

/-- LOOP has a step (R160, R166, R183, R123): not after a fault, not in a wait before its exit, not at `S0` once polled, not
at `DONE`. -/
def State.loopEnabled (s : State) : Bool :=
  decide (s.fault = .none) &&
    match s.lp with
    | .s0 => !s.polled
    | .a5w | .b3w | .b5w | .b9w => decide (s.waitUntil ≤ s.now)
    | .cmd k => (s.cfg.cmds[k]?).isSome
    | .done => false
    | _ => true

/-- The entry of `wait_ms(d)` (R166). -/
def State.enterWait (s : State) (d : Nat) (waiting : Phase) : State :=
  { s with waitUntil := s.now + d, lp := waiting }

/-- `BOOT5` (R232): interrupts are enabled and the button's level recorded, in one step. -/
def State.enableInterrupts (s : State) : State :=
  let v := s.sample s.cfg.pinButton
  { v.2 with ien := true, btnLast := v.1, lp := .s0 }

/-- `A4` (R172): the full arm and `on`, in one step. -/
def State.switchOn (s : State) : State :=
  { s with countdown := armValue s.cfg.powerOnTime, on := true, lp := .a5 }

/-- An arm in the `B` phases (R175, R179). -/
def State.arm (s : State) (ticks : Nat) (next : Phase) : State :=
  { s with countdown := armValue ticks, lp := next }

/-- `Z0` (R181): the zero check. -/
def State.zeroCheck (s : State) : State :=
  if s.countdown = 0 then s.goto .z1 else { s with polled := true, lp := .s0 }

/-- `Z4` (R182). -/
def State.switchOff (s : State) : State := { s with on := false, polled := true, lp := .s0 }

/-- The action of a phase that is one atomic step (R162). -/
def State.phaseStep (s : State) : Result :=
  match s.lp with
  | .boot5 => .next s.enableInterrupts
  | .s0 => .next (s.goto (if s.pressed then .s1 else .z0))
  | .s1 => .next (s.goto (if s.on then .b1 else .a1))
  | .a4 => .next s.switchOn
  | .a5 => .next (s.enterWait s.cfg.debounceMs .a5w)
  | .a5w => .next (s.goto .a6)
  | .a6 => .next (s.clearPress .z0)
  | .b2 => .next (s.arm s.cfg.pendingOffTicks .b3)
  | .b3 => .next (s.enterWait s.cfg.debounceMs .b3w)
  | .b3w => .next (s.goto .b4)
  | .b4 => .next (s.clearPress .b5)
  | .b5 => .next (s.enterWait s.cfg.sampleWaitMs .b5w)
  | .b5w => .next (s.goto .b6)
  | .b6 => .next (s.goto (if s.pressed then .b7 else .z0))
  | .b8 => .next (s.arm s.cfg.powerOnTime .b9)
  | .b9 => .next (s.enterWait s.cfg.debounceMs .b9w)
  | .b9w => .next (s.goto .b10)
  | .b10 => .next (s.clearPress .z0)
  | .z0 => .next s.zeroCheck
  | .z4 => .next s.switchOff
  -- without AUX_FOLLOWS_RELAYS no phase leads here; such a state goes straight on (R162, entry 18)
  | .a3x => .next (s.goto .a4)
  | .z3x => .next (s.goto .z4)
  | _ => .fault .notEnabled

/-- After a command's micro-step: when the command is complete LOOP goes to the next phase (R100, R160); a command that
faulted leaves `lp` where it is (R201). -/
def State.afterMicroStep (s : State) : State :=
  if s.fault = .none then
    match s.cip with
    | .idle => s.goto (nextPhase s.cfg s.lp)
    | .busy _ _ _ => s
  else s

/-- One micro-step of the command word LOOP is at: a word that is no command raises its decode fault (R88, R203). -/
def State.issueStep (s : State) (w : CmdWord) : Result :=
  match decodeWord w with
  | .error f => .next (s.raise (.ofDecode f) w none)
  | .ok i =>
    match exec i s with
    | .next t => .next t.afterMicroStep
    | .fault r => .fault r
    | .refused r => .refused r

/-- One atomic step of LOOP (R160). -/
def State.loopStep (s : State) : Result :=
  if s.loopEnabled then
    match phaseWord s.cfg s.lp with
    | some w => s.issueStep w
    | none => s.phaseStep
  else .fault .notEnabled

end Sys2Proof.Machine
end

