-- ==== Sys2Proof/Machine/Env.lean ====
section
/-! DEFINITION. ENV's two moves (R186, R190), when each move of each agent is enabled, the choice of the next move (entries 1 and
2), and one atomic step of the whole block with its epilogue (R69, R204). -/

namespace Sys2Proof.Machine

/-- The Advance is enabled (R186): no handler pending, and LOOP polled, inside a wait it may still stay in, or done. -/
def State.advanceEnabled (s : State) : Bool :=
  decide (s.fault = .none) && !s.tickPending && decide (s.edgePending = 0) &&
    (decide (s.lp = .s0) && s.polled
      || s.lp.isWait && decide (s.now + 1 ≤ s.waitUntil + s.cfg.waitSlackMs)
      || decide (s.lp = .done))

/-- The time advance (R186, R141): one millisecond, and the tick when its time has come. -/
def State.tickOver (s : State) : State :=
  if s.now + 1 = s.nextTick then
    { s with
      now := s.now + 1
      polled := false
      nextTick := s.nextTick + s.cfg.tickPeriodMs
      tickPending := s.tickPending || s.ien }
  else { s with now := s.now + 1, polled := false }

/-- ENV's `Advance`. -/
def State.advanceStep (s : State) : Result :=
  if s.advanceEnabled then .next s.tickOver else .fault .notEnabled

/-- `SetExt` is enabled (R190): `FAULT = 0`, for any pin that exists (entry 16). -/
def State.setExtEnabled (s : State) (pin : Pin) : Bool := decide (s.fault = .none) && s.cfg.pinExists pin

/-- ENV's `SetExt`. -/
def State.setExtStep (s : State) (pin : Pin) (e : Drive) : Result :=
  if s.setExtEnabled pin then .next (s.setExt pin e) else .fault .notEnabled

/-- The move has a step in this state (R142, R146, R160, R186, R190). -/
def State.enabled (s : State) : Move → Bool
  | .loop => s.loopEnabled
  | .tick => decide (s.fault = .none) && s.tickPending
  | .edge => decide (s.fault = .none) && decide (0 < s.edgePending)
  | .advance => s.advanceEnabled
  | .setExt pin _ => s.setExtEnabled pin

/-- What a move does, without the epilogue. -/
def State.act (s : State) : Move → Result
  | .loop => s.loopStep
  | .tick => exec .tick s
  | .edge => exec .edge s
  | .advance => s.advanceStep
  | .setExt pin e => s.setExtStep pin e

/-- The move asked for next, and the state with the choice used up: the schedule's first, else a free value (entry 1). -/
def State.wanted (s : State) : Move × State :=
  match s.sched with
  | m :: ms => (m, { s with sched := ms })
  | [] => (Config.freeMove s.picks, { s with picks := s.picks + 1 })

/-- The agents' own moves, in the order of the schedule of 95_test_vectors.md part 2.10: handlers as soon as they are
pending, then LOOP, then time. -/
def agentMoves : List Move := [.tick, .edge, .loop, .advance]

/-- The move that runs: the wanted one if it has a step, else the first agent move that has one (entry 2). -/
def State.chosen (s : State) (want : Move) : Option Move :=
  if s.enabled want then some want else agentMoves.find? s.enabled

/-- A step's answer with the epilogue of R204 run on a next state. -/
def withEpilogue : Result → Result
  | .next s => .next s.epilogue
  | .fault r => .fault r
  | .refused r => .refused r

/-- One atomic step of the block: the chosen move, then the epilogue (R69, R204). -/
def State.moveStep (s : State) : Result :=
  match s.wanted.2.chosen s.wanted.1 with
  | some m => withEpilogue (s.wanted.2.act m)
  | none => .fault .noMove

/-- One step: none for an invalid configuration (R7), none after a fault (R201). -/
def State.blockStep (s : State) : Result :=
  if s.cfg.valid then running s s.moveStep else .refused .invalidConfig

/-! Placing one instruction where the next step takes it (entry 13). -/

/-- How many micro-steps a command takes from its start (R100, R104 to R118): the turns LOOP needs to complete it. -/
def microSteps : Instr → Nat
  | .bindOut _ _ _ => 2
  | .bindTri _ _ _ => 2
  | .bindIn _ _ _ pu => if pu then 4 else 2
  | .write _ _ => 2
  | .triWrite _ _ => 4
  | .read _ => 1
  | .tick => 1
  | .edge => 1

/-- The turns the word takes: one for a word that is no command (R88). -/
def wordTurns (w : CmdWord) : Nat :=
  match decodeWord w with
  | .ok i => microSteps i
  | .error _ => 1

/-- The command list `[w]`, LOOP at its start, and LOOP's turns next (R123, entry 13). -/
def State.withCommand (s : State) (w : CmdWord) : State :=
  { s with
    cfg := { s.cfg with loopMode := .commandList [w] }
    lp := .cmd 0
    cip := .idle
    sched := List.replicate (wordTurns w) .loop }

/-- The event pending, and its handler's run next (R142, R146, entry 13). -/
def State.withEvent (s : State) (code : Nat) : State :=
  match code with
  | 0 => { s with tickPending := true, sched := [.tick] }
  | 1 => { s with edgePending := max s.edgePending 1, sched := [.edge] }
  | _ => s

end Sys2Proof.Machine
end

