-- ==== Sys2Proof/Machine/Step.lean ====
section
/-! DEFINITION. The step, and placing one instruction as the next one the step runs. -/

namespace Sys2Proof.Machine

/-- One atomic step of AutoOff-CORE (R69). -/
def step (s : State) : Host.Outcome State Fault Refusal := s.blockStep

/-- `s` with the instruction of these bits placed so that the next step runs it: an event's bits are fewer than a command's
16 (R80, R91, entry 13). -/
def State.withFetchWord (s : State) (nbits w : Nat) : State :=
  if nbits ≤ 8 then s.withEvent w else s.withCommand (BitVec.ofNat 16 w)

end Sys2Proof.Machine
end

