-- ==== Sys2Proof/Safety.lean ====
section
/-! DEFINITION. What counts as a safe run, in the terms claims use: acceptable states (R192), the environment's duties (R191),
runs and their fairness (R188), and the invariants that claims about every step name. -/

namespace Sys2Proof.Machine

/-! Safe states and runs. -/

/-- A state with `FAULT ≠ 0` is never an acceptable end and refutes every claim (R192). -/
def State.safe (s : State) : Prop := s.fault = .none

/-- The acceptable end of a command-list run (R192). -/
def State.finished (s : State) : Prop := s.lp = .done ∧ s.fault = .none

/-- The four output lines of the controller (R191). -/
def outputPins (cfg : Config) : List Pin := [cfg.pinRelay1, cfg.pinRelay2, cfg.pinAux, cfg.pinInd]

/-- No output line is driven from outside. -/
def State.outputsFree (s : State) : Prop := ∀ pin ∈ outputPins s.cfg, s.extOf pin = .z

/-- A move that keeps the environment's duty of R191, `EXT = Z` on the output lines from `BOOT1` on: ENV drives none of them
from then on, and none is driven when LOOP leaves `BOOT0`. Before, any drive is harmless (R236). -/
def dutiful (s : State) : Move → Prop
  | .setExt pin e => s.lp ≠ .boot0 → pin ∈ outputPins s.cfg → e = .z
  | .loop => ∀ t, s.loopStep = .next t → t.lp ≠ .boot0 → t.outputsFree
  | .tick => True
  | .edge => True
  | .advance => True

/-- The move the next step takes (entry 1). -/
def State.taken (s : State) : Option Move := s.wanted.2.chosen s.wanted.1

/-- A run: one total order of atomic steps (R69). -/
def IsRun (r : Nat → State) : Prop := ∀ n, step (r n) = .next (r (n + 1))

/-- Weak fairness (R188): a step of LOOP, TICK, EDGE or Advance that stays enabled is eventually taken. -/
def WeaklyFair (r : Nat → State) : Prop :=
  ∀ m ∈ agentMoves, ∀ n, (∀ k ≥ n, (r k).enabled m = true) → ∃ k ≥ n, (r k).taken = some m

/-- ENV makes finitely many line changes at each instant (R188). -/
def FiniteLineChanges (r : Nat → State) : Prop :=
  ∀ t, ∃ n, ∀ k ≥ n, (r k).now = t → ∀ pin e, (r k).taken ≠ some (.setExt pin e)

/-- A state some number of steps after reset, for a valid configuration, launch drives and a schedule. -/
inductive Reachable : State → Prop where
  | reset (cfg : Config) (ext : Vector (Vector Drive 8) 16) (sched : List Move) :
      cfg.valid = true → Reachable (State.resetWith cfg ext sched)
  | step (s t : State) : Reachable s → Machine.step s = .next t → Reachable t

/-! Invariants. Each is a predicate of one state that every step keeps; the certificates state so. -/

/-- Bound pins exist, and no two channels hold one pin (R27, R28). -/
def State.chanOk (s : State) : Prop :=
  ∀ c, ∀ b ∈ s.chanOf c,
    s.cfg.pinExists b.pin = true ∧ ∀ c', c' ≠ c → ∀ b' ∈ s.chanOf c', b'.pin ≠ b.pin

/-- What a command in progress has done before its micro-step `k`, and that its pending read is not stale: `t` is still the
register's value (R35, R102, R243). -/
def State.microOk (s : State) (i : Instr) (k : Nat) (t : PortReg) : Prop :=
  match i with
  | .bindOut c pin al => k = 1 ∧ s.chanOf c = some ⟨.out, pin, al, false⟩ ∧ t = s.dirOf pin.port
  | .bindTri c pin al =>
    k = 1 ∧ s.chanOf c = some ⟨.tri, pin, al, false⟩ ∧ s.triOf c = .none ∧ t = s.dirOf pin.port
  | .bindIn c pin al pu =>
    s.chanOf c = some ⟨.inp, pin, al, pu⟩ ∧
      (k = 1 ∧ t = s.dirOf pin.port ∨ pu = true ∧ k = 2 ∨ pu = true ∧ k = 3 ∧ t = s.outOf pin.port)
  | .write c _ => k = 1 ∧ ∃ b ∈ s.chanOf c, b.kind = .out ∧ t = s.outOf b.pin.port
  | .triWrite c _ =>
    ∃ b ∈ s.chanOf c, b.kind = .tri ∧
      (k = 1 ∧ t = s.dirOf b.pin.port ∨ k = 2 ∨ k = 3 ∧ t = s.outOf b.pin.port)
  | .read _ => False
  | .tick => False
  | .edge => False

/-- The command in progress is one, at a micro-step it has (R35). -/
def State.cipOk (s : State) : Prop :=
  match s.cip with
  | .idle => True
  | .busy w k t => ∃ i, decodeWord w = .ok i ∧ s.microOk i k t

/-- BIND.TRI of this channel is between its two micro-steps: bound, the direction bit not yet written (R106, entry 19). -/
def State.bindTriOpen (s : State) (c : Chan) (b : Binding) : Bool :=
  match s.cip with
  | .idle => false
  | .busy w k _ => decide (w = (Instr.bindTri c b.pin b.al).word) && decide (k = 1)

/-- The direction invariant (R117): the direction bit of a tri-state channel is "driven" exactly when the last level
requested is not HIGH_Z. -/
def State.directionOk (s : State) : Prop :=
  ∀ c, ∀ b ∈ s.chanOf c, b.kind = .tri → s.bindTriOpen c b = false →
    (s.dirBit b.pin = true ↔ s.triOf c ≠ .highZ)

/-- The mux invariant: R27, R28, R35 and R117 together. -/
def State.muxInv (s : State) : Prop := s.chanOk ∧ s.cipOk ∧ s.directionOk

/-- The phases of power-off after the zero check saw 0 (R182). -/
def Phase.switchingOff : Phase → Bool
  | .z1 | .z2 | .z3 | .z3x | .z4 => true
  | _ => false

/-- The phases of a press while ON (R174 to R180). -/
def Phase.pressWhileOn : Phase → Bool
  | .b1 | .b2 | .b3 | .b3w | .b4 | .b5 | .b5w | .b6 | .b7 | .b8 | .b9 | .b9w | .b10 => true
  | _ => false

/-- R184, with what makes it inductive: `on = 0` implies `countdown = 0`; the power-off phases run with `countdown = 0`; the `B`
phases run with `on = 1`. -/
def State.onInv (s : State) : Prop :=
  (s.on = false → s.countdown = 0) ∧ (s.lp.switchingOff = true → s.countdown = 0) ∧
    (s.lp.pressWhileOn = true → s.on = true)

/-- The channel is driven and shows the logical level (R50). -/
def State.shows (s : State) (c : Chan) (level : Bool) : Prop := s.logicalLevel c = some (some level)

/-- The auxiliary output is written with the relays (R198). -/
def State.auxFollows (s : State) : Prop := s.cfg.auxFollowsRelays = true

/-- R172, R182, R198: the relays, and the auxiliary output where it follows them, are at logical 1 while `on = 1`, and from their write of `A2`,
`A3` or `A3X` on, until their write of `Z2`, `Z3` or `Z3X` is complete; from their write of the power-off to its end they, and the
indicator, are at logical 0. -/
def State.relayInv (s : State) : Prop :=
  ((s.on = true ∨ s.lp ∈ [.a3, .a3x, .a4]) → s.lp ∉ [.z3, .z3x, .z4] → s.shows 1 true) ∧
  ((s.on = true ∨ s.lp ∈ [.a3x, .a4]) → s.lp ∉ [.z3x, .z4] → s.shows 2 true) ∧
  (s.auxFollows → (s.on = true ∨ s.lp = .a4) → s.lp ≠ .z4 → s.shows 3 true) ∧
  (s.lp ∈ [.z3, .z3x, .z4] → s.shows 1 false) ∧
  (s.lp ∈ [.z3x, .z4] → s.shows 2 false) ∧
  (s.auxFollows → s.lp = .z4 → s.shows 3 false) ∧
  (s.lp ∈ [.z2, .z3, .z3x, .z4] → s.shows 4 false)

/-- R193: while `on = 0` the indicator, the relays, and the auxiliary output where it follows them, are at logical 0, each until its own write of a
press while OFF is complete. Not an invariant from reset: an active-low output shows 1 from its bind to the first power-off (R242). -/
def State.offInv (s : State) : Prop :=
  s.on = false →
    (s.lp ∉ [.a2, .a3, .a3x, .a4] → s.shows 4 false) ∧
    (s.lp ∉ [.a3, .a3x, .a4] → s.shows 1 false) ∧
    (s.lp ∉ [.a3x, .a4] → s.shows 2 false) ∧
    (s.auxFollows → s.lp ≠ .a4 → s.shows 3 false)

/-- R166: inside a wait, time has not passed the end of the wait and its slack. -/
def State.waitInv (s : State) : Prop := s.lp.isWait = true → s.now ≤ s.waitUntil + s.cfg.waitSlackMs

/-- R141: the next tick instant is ahead, at most one period away, and is `TICK_PHASE_MS + k * TICK_PERIOD_MS`. -/
def State.tickInv (s : State) : Prop :=
  s.now < s.nextTick ∧ s.nextTick ≤ s.now + s.cfg.tickPeriodMs ∧
    ∃ k, s.nextTick = s.cfg.tickPhaseMs + k * s.cfg.tickPeriodMs

/-- R39: while `ien = 0` no event is recorded. -/
def State.ienInv (s : State) : Prop := s.ien = false → s.tickPending = false ∧ s.edgePending = 0

/-- R52: the fault record is empty while there is no fault. -/
def State.faultInv (s : State) : Prop := s.fault = .none → s.faultWord = 0x0000 ∧ s.faultPin = none

/-- The binding of a channel in the controller configuration once boot has made it (R30). -/
def controllerBinding (cfg : Config) (c : Chan) : Option Binding :=
  if c = 0 then some ⟨.inp, cfg.pinButton, Config.alButton, Config.puButton⟩
  else if c = 1 then some ⟨.out, cfg.pinRelay1, cfg.alRelay1, false⟩
  else if c = 2 then some ⟨.out, cfg.pinRelay2, cfg.alRelay2, false⟩
  else if c = 3 then some ⟨.out, cfg.pinAux, cfg.alAux, false⟩
  else if c = 4 then some ⟨.out, cfg.pinInd, cfg.alInd, false⟩
  else none

/-- How many of the five boot binds are behind the phase (R231). -/
def Phase.bindsDone : Phase → Nat
  | .boot0 => 0
  | .boot1 => 1
  | .boot2 => 2
  | .boot3 => 3
  | .boot4 => 4
  | _ => 5

/-- How many channels are bound: the binds behind the phase, and the one in progress, whose `μ0` has bound its channel. -/
def State.boundCount (s : State) : Nat :=
  match s.cip with
  | .idle => s.lp.bindsDone
  | .busy _ _ _ => if s.lp.bindsDone < 5 then s.lp.bindsDone + 1 else 5

/-- A phase of the controller's loop program (R162, R163). -/
def Phase.ofController : Phase → Bool
  | .cmd _ => false
  | .done => false
  | _ => true

/-- The boot phases (R231, R232). -/
def Phase.isBoot : Phase → Bool
  | .boot0 | .boot1 | .boot2 | .boot3 | .boot4 | .boot5 => true
  | _ => false

/-- The command in progress is the phase's own (R35, R160). -/
def State.cipOfPhase (s : State) : Prop :=
  match s.cip with
  | .idle => True
  | .busy w _ _ => phaseWord s.cfg s.lp = some w

/-- The invariant of a controller run that meets R191: no fault, LOOP in its table, the channels bound as R30 says as far as boot has
come, every output line driven once its bind is complete, only output lines driven and none before `BOOT1`, none of them driven from outside from `BOOT1` on, and no event before
interrupts are enabled. -/
def State.controllerInv (s : State) : Prop :=
  s.cfg.valid = true ∧ s.cfg.loopMode = .controller ∧ s.fault = .none ∧
    s.lp.ofController = true ∧ s.cipOk ∧ s.cipOfPhase ∧
    (∀ c : Chan, s.chanOf c = if c.val < s.boundCount then controllerBinding s.cfg c else none) ∧
    (∀ pin, s.dirBit pin = true → pin ∈ outputPins s.cfg ∧ s.lp ≠ .boot0) ∧
    (∀ c b, controllerBinding s.cfg c = some b → b.kind = .out → c.val < s.lp.bindsDone → s.dirBit b.pin = true) ∧
    (s.lp ≠ .boot0 → s.outputsFree) ∧
    (s.lp.isBoot = true → s.ien = false ∧ s.tickPending = false ∧ s.edgePending = 0)

end Sys2Proof.Machine
end

