-- ==== Sys2Proof/Certificates/Slice0/Obligations.lean ====
section
/-! DEFINITION. The statements for the provers: what the spec's rules say the commands, the handlers, LOOP, ENV and the whole block do.
Each docstring names the rules it formalises. -/

namespace Sys2Proof.Machine

/-- A register value with one bit set or cleared, as the rules write it: `t | bit(1, i)` and `t & ~bit(1, i)` (R104, R108). -/
def withBit (t : PortReg) (i : PinIdx) (b : Bool) : PortReg :=
  if b then t ||| (1#8 <<< i.val) else t &&& ~~~(1#8 <<< i.val)

/-- One evaluation of `level(q)` may give `v` and leave the count of draws at `d` (R120): the level where it is determined, else the
next free bit (R12). -/
def State.levelGives (s : State) (q : Pin) (v : Bool) (d : Nat) : Prop :=
  s.lineLevel q = some v ∧ d = s.draws ∨ s.lineLevel q = none ∧ v = Config.freeBit s.draws ∧ d = s.draws + 1

/-- The pin exists and is driven against its external drive (R121). -/
def State.opposed (s : State) (q : Pin) : Prop :=
  q.port.val < s.cfg.numPorts ∧ s.dirBit q = true ∧
    (s.extOf q = .l ∧ s.outBit q = true ∨ s.extOf q = .h ∧ s.outBit q = false)

/-- The pin comes no later in the order of R52: lowest port, then lowest index. -/
def pinLe (q r : Pin) : Prop := q.port < r.port ∨ q.port = r.port ∧ q.idx ≤ r.idx

/-- A next state changed by `f`; a stop unchanged. -/
def mapNext (f : State → State) : Result → Result
  | .next s => .next (f s)
  | .fault r => .fault r
  | .refused r => .refused r

/-- The operand fields of a command word, as numbers: `ch = w[12:10]`, `port = w[9:6]`, `idx = w[5:3]`, `al = w[2]` (R83). -/
def bindFields (w : CmdWord) (c : Chan) (q : Pin) (al : Bool) : Prop :=
  c.val = w.toNat / 2 ^ 10 % 8 ∧ q.port.val = w.toNat / 2 ^ 6 % 16 ∧ q.idx.val = w.toNat / 2 ^ 3 % 8 ∧
    al.toNat = w.toNat / 2 ^ 2 % 2

end Sys2Proof.Machine

open Sys2Proof Sys2Proof.Machine

/-! Encoding. -/

/-- R81 to R88, R91: decoding the code of an instruction gives the instruction back, every operand at every value. -/
def Obligations.DecodeEncodeAgree : Prop := ∀ i : Instr, decode (encode i) = .ok i

/-- R84, R88: an instruction has exactly one code; no bit of a decoded word is ignored. -/
def Obligations.DecodedCodeIsTheEncoding : Prop := ∀ (c : Code) (i : Instr), decode c = .ok i → encode i = c

/-- R90: the match and mask of the opcode table select the operation, `op` being `w[15:13]` (R81); a word of a row's `op` that fails its mask
decodes to `F_RESERVED_FIELD`, except TRI.WRITE with `arg = 0b11`, which passes the mask and decodes to `F_RESERVED_LEVEL`. A reserved `op` has
no row and decodes to `F_ILLEGAL_OP` (R89). A word that passes is its row's operation, its operands the fields of R83 and R85 to R87. -/
def Obligations.DecodeFollowsTableRows : Prop :=
  tableRow 0b000 = some (0x0000, 0xE003) ∧ tableRow 0b001 = some (0x2000, 0xE003) ∧
  tableRow 0b010 = some (0x4000, 0xE002) ∧ tableRow 0b011 = some (0x6000, 0xE3FE) ∧
  tableRow 0b100 = some (0x8000, 0xE3FC) ∧ tableRow 0b101 = some (0xA000, 0xE3FF) ∧
  tableRow 0b110 = none ∧ tableRow 0b111 = none ∧
  ∀ w : CmdWord,
    match tableRow (BitVec.ofNat 3 (w.toNat / 2 ^ 13)) with
    | none => decodeWord w = .error .illegalOp
    | some (bits, mask) =>
      if w &&& mask ≠ bits then decodeWord w = .error .reservedField
      else if w.toNat / 2 ^ 13 = 4 ∧ w.toNat % 4 = 3 then decodeWord w = .error .reservedLevel
      else
        ∃ (c : Chan) (q : Pin) (al : Bool), bindFields w c q al ∧
          match w.toNat / 2 ^ 13 with
          | 0 => decodeWord w = .ok (.bindOut c q al)
          | 1 => decodeWord w = .ok (.bindTri c q al)
          | 2 => decodeWord w = .ok (.bindIn c q al (decide (w.toNat % 2 = 1)))
          | 3 => decodeWord w = .ok (.write c (decide (w.toNat % 2 = 1)))
          | 4 =>
            decodeWord w = .ok (.triWrite c
              (if w.toNat % 4 = 0 then .low else if w.toNat % 4 = 1 then .high else .highZ))
          | _ => decodeWord w = .ok (.read c)

/-- R81, R82, R84 to R87: the word of every command, field by field as a number: `op << 13 | ch << 10 | port << 6 | idx << 3 | al << 2 | arg`, with the
fields an operation does not use 0; and the event codes of R91. -/
def Obligations.WordsAreTheFields : Prop :=
  (∀ (c : Chan) (q : Pin) (al : Bool),
    let operands := c.val * 2 ^ 10 + q.port.val * 2 ^ 6 + q.idx.val * 2 ^ 3 + al.toNat * 2 ^ 2
    (Instr.bindOut c q al).word.toNat = 0 * 2 ^ 13 + operands ∧
    (Instr.bindTri c q al).word.toNat = 1 * 2 ^ 13 + operands ∧
    ∀ pu : Bool, (Instr.bindIn c q al pu).word.toNat = 2 * 2 ^ 13 + operands + pu.toNat) ∧
  (∀ c : Chan,
    (∀ level : Bool, (Instr.write c level).word.toNat = 3 * 2 ^ 13 + c.val * 2 ^ 10 + level.toNat) ∧
    (Instr.triWrite c .low).word.toNat = 4 * 2 ^ 13 + c.val * 2 ^ 10 + 0 ∧
    (Instr.triWrite c .high).word.toNat = 4 * 2 ^ 13 + c.val * 2 ^ 10 + 1 ∧
    (Instr.triWrite c .highZ).word.toNat = 4 * 2 ^ 13 + c.val * 2 ^ 10 + 2 ∧
    (Instr.read c).word.toNat = 5 * 2 ^ 13 + c.val * 2 ^ 10) ∧
  encode .tick = .event 0 ∧ encode .edge = .event 1

/-- Sanity: the example words of R92 and the event codes of R91 decode to what the spec says they are. -/
def Obligations.SpecWordsDecode : Prop :=
  decodeTableWord 16 0x041C = some (.bindOut 1 ⟨0, 3⟩ true) ∧
  decodeTableWord 16 0x3470 = some (.bindTri 5 ⟨1, 6⟩ false) ∧
  decodeTableWord 16 0x4015 = some (.bindIn 0 ⟨0, 2⟩ true true) ∧
  decodeTableWord 16 0x7001 = some (.write 4 true) ∧
  decodeTableWord 16 0x9402 = some (.triWrite 5 .highZ) ∧
  decodeTableWord 16 0xA000 = some (.read 0) ∧
  decodeTableWord 8 0 = some .tick ∧ decodeTableWord 8 1 = some .edge

/-- D40, R80: the bytes of a command, the less significant first, decode to it and leave the bytes after them; an event's byte
likewise (entry 20). -/
def Obligations.BytesDecodeAgree : Prop :=
  ∀ (i : Instr) (rest : List Byte),
    (i ≠ .tick → i ≠ .edge → decodeBytes (encodeBytes i ++ rest) = .ok (i, rest)) ∧
    (i = .tick ∨ i = .edge → decodeEventBytes (encodeBytes i ++ rest) = .ok (i, rest))

/-! The commands. -/

/-- R104, R105: BIND.OUT, begun where its checks pass, binds the channel and reads `DIR`, then sets the pin's direction bit; nothing
else changes, `OUT` included. -/
def Obligations.BindOutCompletes : Prop :=
  ∀ (s : State) (c : Chan) (q : Pin) (al : Bool),
    s.fault = .none → s.cip = .idle → s.chanOf c = none → q.port.val < s.cfg.numPorts →
    (∀ c', c' ≠ c → ∀ b, s.chanOf c' = some b → b.pin ≠ q) →
    let i := Instr.bindOut c q al
    let s1 := (s.setChan c ⟨.out, q, al, false⟩).setCip (.busy i.word 1 (s.dirOf q.port))
    exec i s = .next s1 ∧
    exec i s1 = .next ((s1.setDir q.port (withBit (s.dirOf q.port) q.idx true)).setCip .idle)

/-- R106: BIND.TRI does the same with kind TRI, and writes NONE to `triLast`. -/
def Obligations.BindTriCompletes : Prop :=
  ∀ (s : State) (c : Chan) (q : Pin) (al : Bool),
    s.fault = .none → s.cip = .idle → s.chanOf c = none → q.port.val < s.cfg.numPorts →
    (∀ c', c' ≠ c → ∀ b, s.chanOf c' = some b → b.pin ≠ q) →
    let i := Instr.bindTri c q al
    let s1 := ((s.setChan c ⟨.tri, q, al, false⟩).setTri c .none).setCip (.busy i.word 1 (s.dirOf q.port))
    exec i s = .next s1 ∧
    exec i s1 = .next ((s1.setDir q.port (withBit (s.dirOf q.port) q.idx true)).setCip .idle)

/-- R108, R109: BIND.IN binds, clears the direction bit, and only with the pull-up requested reads `OUT` and sets the pin's bit in
it, whatever the polarity. -/
def Obligations.BindInCompletes : Prop :=
  ∀ (s : State) (c : Chan) (q : Pin) (al pu : Bool),
    s.fault = .none → s.cip = .idle → s.chanOf c = none → q.port.val < s.cfg.numPorts →
    (∀ c', c' ≠ c → ∀ b, s.chanOf c' = some b → b.pin ≠ q) →
    let i := Instr.bindIn c q al pu
    let s1 := (s.setChan c ⟨.inp, q, al, pu⟩).setCip (.busy i.word 1 (s.dirOf q.port))
    let s2 := s1.setDir q.port (withBit (s.dirOf q.port) q.idx false)
    exec i s = .next s1 ∧
    (pu = false → exec i s1 = .next (s2.setCip .idle)) ∧
    (pu = true →
      exec i s1 = .next (s2.setCip (.busy i.word 2 (s.dirOf q.port))) ∧
      exec i (s2.setCip (.busy i.word 2 (s.dirOf q.port))) = .next (s2.setCip (.busy i.word 3 (s.outOf q.port))) ∧
      exec i (s2.setCip (.busy i.word 3 (s.outOf q.port))) =
        .next ((s2.setOut q.port (withBit (s.outOf q.port) q.idx true)).setCip .idle))

/-- R111: WRITE on an `OUT` channel reads `OUT`, then writes the pin's bit as `level ^ al`; nothing else changes, `DIR` included. -/
def Obligations.WriteCompletes : Prop :=
  ∀ (s : State) (c : Chan) (level : Bool) (b : Binding),
    s.fault = .none → s.cip = .idle → s.chanOf c = some b → b.kind = .out →
    let i := Instr.write c level
    let s1 := s.setCip (.busy i.word 1 (s.outOf b.pin.port))
    exec i s = .next s1 ∧
    exec i s1 =
      .next ((s.setOut b.pin.port (withBit (s.outOf b.pin.port) b.pin.idx (level ^^ b.al))).setCip .idle)

/-- R114: TRI.WRITE on a `TRI` channel writes the direction bit and `triLast` in one micro-step, then the output bit: `level ^ al` for LOW and
HIGH, `0 ^ al` for HIGH_Z. -/
def Obligations.TriWriteCompletes : Prop :=
  ∀ (s : State) (c : Chan) (lvl : DriveLevel) (b : Binding),
    s.fault = .none → s.cip = .idle → s.chanOf c = some b → b.kind = .tri →
    let i := Instr.triWrite c lvl
    let p := b.pin.port
    let s1 := s.setCip (.busy i.word 1 (s.dirOf p))
    let s2 := ((s.setDir p (withBit (s.dirOf p) b.pin.idx (decide (lvl ≠ .highZ)))).setTri c
      (match lvl with | .low => .low | .high => .high | .highZ => .highZ)).setCip (.busy i.word 2 (s.dirOf p))
    let s3 := s2.setCip (.busy i.word 3 (s.outOf p))
    exec i s = .next s1 ∧ exec i s1 = .next s2 ∧ exec i s2 = .next s3 ∧
    exec i s3 =
      .next ((s3.setOut p (withBit (s.outOf p) b.pin.idx (decide (lvl = .high) ^^ b.al))).setCip .idle)

/-- R118, R119: READ on an `IN` channel is one step; it changes only `rd_LOOP`, which becomes the level `^ al`, for both polarities and
whatever the pull-up. Where the level is a draw (R120) the value is a free bit, and the model's count of draws moves on (entry 7). -/
def Obligations.ReadCompletes : Prop :=
  ∀ (s : State) (c : Chan) (b : Binding) (v : Bool) (d : Nat),
    s.fault = .none → s.cip = .idle → s.chanOf c = some b → b.kind = .inp → s.levelGives b.pin v d →
    exec (.read c) s = .next { s with rdLoop := v ^^ b.al, draws := d }

/-- R142: TICK has event code 0. Enabled when pending and `FAULT = 0`, it clears its pending bit and lowers the countdown by one with a floor
at 0; nothing else changes. When it is not enabled it has no step. -/
def Obligations.TickDecrements : Prop :=
  decode (.event 0) = .ok .tick ∧
  ∀ s : State,
    (s.fault = .none → s.tickPending = true →
      ∃ n : CountReg, n.toNat = s.countdown.toNat - 1 ∧
        exec .tick s = .next { s with tickPending := false, countdown := n }) ∧
    (s.fault = .none → s.tickPending = false → exec .tick s = .fault .notEnabled) ∧
    (s.fault ≠ .none → exec .tick s = .fault .halted)

/-- R146: EDGE, enabled when an edge is pending and with `c0` an input, takes one pending edge, reads the button's logical level into `rd_EDGE`, and sets
`pressed` if it is 1; it never clears `pressed`, and nothing else changes but the count of draws. -/
def Obligations.EdgeLatches : Prop :=
  ∀ s : State, s.fault = .none →
    (∀ (b : Binding) (v : Bool) (d : Nat), 0 < s.edgePending → s.chanOf 0 = some b → b.kind = .inp →
      s.levelGives b.pin v d →
      exec .edge s = .next
        { s with
          edgePending := s.edgePending - 1
          rdEdge := v ^^ b.al
          pressed := if (v ^^ b.al) = true then true else s.pressed
          draws := d }) ∧
    (s.edgePending = 0 → exec .edge s = .fault .notEnabled)

/-- R147: the button is an input with `al = 1` and the pull-up on, so EDGE latches a press where the line is pulled low, and leaves `pressed`
alone where it is open or high. -/
def Obligations.ButtonReadsActiveLow : Prop :=
  ∀ (s : State) (q : Pin), s.fault = .none → 0 < s.edgePending → s.chanOf 0 = some ⟨.inp, q, true, true⟩ →
    s.dirBit q = false → s.outBit q = true →
    exec .edge s = .next
      { s with
        edgePending := s.edgePending - 1
        rdEdge := decide (s.extOf q = .l)
        pressed := s.pressed || decide (s.extOf q = .l) }

/-- R103, R203: the checks of the three BIND commands in their order; the first that fails is recorded with the word and the pin named, and
nothing else changes. -/
def Obligations.BindFaultOrder : Prop :=
  ∀ (s : State) (c : Chan) (q : Pin) (al pu : Bool) (i : Instr),
    s.fault = .none → s.cip = .idle →
    i = .bindOut c q al ∨ i = .bindTri c q al ∨ i = .bindIn c q al pu →
    (s.chanOf c ≠ none →
      exec i s = .next { s with fault := .channelRebind, faultWord := i.word, faultPin := some q }) ∧
    (s.chanOf c = none → s.cfg.numPorts ≤ q.port.val →
      exec i s = .next { s with fault := .pinRange, faultWord := i.word, faultPin := some q }) ∧
    (s.chanOf c = none → q.port.val < s.cfg.numPorts →
      (∃ c' b, c' ≠ c ∧ s.chanOf c' = some b ∧ b.pin = q) →
      exec i s = .next { s with fault := .pinOwned, faultWord := i.word, faultPin := some q })

/-- R101, R202: WRITE, TRI.WRITE and READ on an unbound channel, and on a channel of another kind, raise their fault with the channel's
pin, and nothing else changes; on a channel of their kind the check gives its binding and raises nothing. -/
def Obligations.ChannelCheckFaults : Prop :=
  ∀ (s : State) (c : Chan) (level : Bool) (lvl : DriveLevel) (i : Instr) (k : Kind),
    s.fault = .none → s.cip = .idle →
    (i = .write c level ∧ k = .out) ∨ (i = .triWrite c lvl ∧ k = .tri) ∨ (i = .read c ∧ k = .inp) →
    (s.chanOf c = none →
      exec i s = .next { s with fault := .unboundChannel, faultWord := i.word, faultPin := none }) ∧
    (∀ b, s.chanOf c = some b → b.kind ≠ k →
      exec i s = .next { s with fault := .wrongKind, faultWord := i.word, faultPin := some b.pin }) ∧
    (∀ b, s.chanOf c = some b → b.kind = k →
      s.chk c k = .ok b ∧ ∃ t, exec i s = .next t ∧ t.fault = .none)

/-- R100: no command writes `countdown`, `pressed`, `on`, `now`, the interrupt registers or `lp`; nor the wait, poll and tick registers, EDGE's
result, the external drives, the configuration or the schedule. -/
def Obligations.CommandsLeaveControllerState : Prop :=
  ∀ (i : Instr) (s t : State), i ≠ .tick → i ≠ .edge → exec i s = .next t →
    t.countdown = s.countdown ∧ t.pressed = s.pressed ∧ t.on = s.on ∧ t.now = s.now ∧ t.ien = s.ien ∧
    t.tickPending = s.tickPending ∧ t.edgePending = s.edgePending ∧ t.btnLast = s.btnLast ∧ t.lp = s.lp ∧
    t.waitUntil = s.waitUntil ∧ t.polled = s.polled ∧ t.nextTick = s.nextTick ∧ t.rdEdge = s.rdEdge ∧
    t.ext = s.ext ∧ t.cfg = s.cfg ∧ t.sched = s.sched ∧ t.picks = s.picks

/-- R201: a command or handler step that raises a command fault changes only the three fault registers, and records the word: for EDGE, its
`READ c0`. -/
def Obligations.CommandFaultKeepsState : Prop :=
  ∀ (i : Instr) (s t : State), exec i s = .next t → t.fault ≠ .none →
    t = { s with
      fault := t.fault
      faultWord := if i = .edge then 0xA000 else i.word
      faultPin := t.faultPin }

/-- R66, R102: a value another agent writes to the register between the read and the write micro-step is lost: the write stores the
value derived from the stale read. -/
def Obligations.InterleavedWriteIsLost : Prop :=
  (∀ (s : State) (c : Chan) (level : Bool) (b : Binding) (t v : PortReg),
    s.fault = .none → s.chanOf c = some b → b.kind = .out → s.cip = .busy (Instr.write c level).word 1 t →
    exec (.write c level) (s.setOut b.pin.port v) =
      .next ((s.setOut b.pin.port (withBit t b.pin.idx (level ^^ b.al))).setCip .idle)) ∧
  (∀ (s : State) (c : Chan) (q : Pin) (al : Bool) (t v : PortReg),
    s.fault = .none → s.cip = .busy (Instr.bindOut c q al).word 1 t →
    exec (.bindOut c q al) (s.setDir q.port v) =
      .next ((s.setDir q.port (withBit t q.idx true)).setCip .idle))

/-- R113: a WRITE with no agent inside it leaves the output bit, the direction bit and the level of every other pin, and the result
of a READ there, as they were. -/
def Obligations.SiblingPreserved : Prop :=
  ∀ (s : State) (a : Chan) (level : Bool) (ba : Binding),
    s.fault = .none → s.cip = .idle → s.chanOf a = some ba → ba.kind = .out →
    ∃ s1 t, exec (.write a level) s = .next s1 ∧ exec (.write a level) s1 = .next t ∧
      ∀ q, q ≠ ba.pin →
        t.outBit q = s.outBit q ∧ t.dirBit q = s.dirBit q ∧ t.lineLevel q = s.lineLevel q ∧
        ∀ (c : Chan) (b : Binding) (x : Bool), s.chanOf c = some b → b.kind = .inp → b.pin = q →
          s.lineLevel q = some x →
          exec (.read c) s = .next { s with rdLoop := x ^^ b.al } ∧
          exec (.read c) t = .next { t with rdLoop := x ^^ b.al }

/-- R115: HIGH_Z leaves the line floating and writes the physical bit `al`: the pull-up is off for `al = 0` and on for `al = 1`; driven
again, the line shows logical LOW. -/
def Obligations.HighZWritesLogicalLow : Prop :=
  ∀ (s : State) (c : Chan) (b : Binding),
    s.fault = .none → s.cip = .idle → s.chanOf c = some b → b.kind = .tri →
    ∃ s1 s2 s3 t, exec (.triWrite c .highZ) s = .next s1 ∧ exec (.triWrite c .highZ) s1 = .next s2 ∧
      exec (.triWrite c .highZ) s2 = .next s3 ∧ exec (.triWrite c .highZ) s3 = .next t ∧
      t.dirBit b.pin = false ∧ t.outBit b.pin = b.al ∧ t.triOf c = .highZ ∧ t.logicalLevel c = some none ∧
      (t.extOf b.pin = .z → t.lineLevel b.pin = if b.al then some true else none) ∧
      (t.extOf b.pin = .z →
        (t.setDir b.pin.port (withBit (t.dirOf b.pin.port) b.pin.idx true)).lineLevel b.pin = some b.al ∧
        (t.setDir b.pin.port (withBit (t.dirOf b.pin.port) b.pin.idx true)).logicalLevel c = some (some false))

/-- R50, R112: after a complete WRITE a driven output shows the level written, and, where nothing drives it from outside, its line the
level `^ al`. -/
def Obligations.WriteSetsLogicalLevel : Prop :=
  ∀ (s : State) (c : Chan) (level : Bool) (b : Binding),
    s.fault = .none → s.cip = .idle → s.chanOf c = some b → b.kind = .out → s.dirBit b.pin = true →
    ∃ s1 t, exec (.write c level) s = .next s1 ∧ exec (.write c level) s1 = .next t ∧
      t.logicalLevel c = some (some level) ∧ (t.extOf b.pin = .z → t.lineLevel b.pin = some (level ^^ b.al))

/-- R105, R107: right after BIND.OUT or BIND.TRI the channel shows the stale output bit `^ al`. -/
def Obligations.BindShowsStaleLevel : Prop :=
  ∀ (s : State) (c : Chan) (q : Pin) (al : Bool) (i : Instr),
    s.fault = .none → s.cip = .idle → s.chanOf c = none → q.port.val < s.cfg.numPorts →
    (∀ c', c' ≠ c → ∀ b, s.chanOf c' = some b → b.pin ≠ q) →
    i = .bindOut c q al ∨ i = .bindTri c q al →
    ∃ s1 t, exec i s = .next s1 ∧ exec i s1 = .next t ∧ t.logicalLevel c = some (some (s.outBit q ^^ al))

/-- R120: the line level, row by row; `none` is a draw. It is the pin's bit of the view `IN`. -/
def Obligations.LineLevelTable : Prop :=
  ∀ (s : State) (q : Pin),
    (s.inOf q.port)[q.idx] = s.lineLevel q ∧
    (s.dirBit q = true →
      (s.extOf q = .z ∨ s.extOf q = .h ∧ s.outBit q = true ∨ s.extOf q = .l ∧ s.outBit q = false →
        s.lineLevel q = some (s.outBit q)) ∧
      (s.extOf q = .h ∧ s.outBit q = false ∨ s.extOf q = .l ∧ s.outBit q = true → s.lineLevel q = none)) ∧
    (s.dirBit q = false →
      (s.extOf q = .l → s.lineLevel q = some false) ∧ (s.extOf q = .h → s.lineLevel q = some true) ∧
      (s.extOf q = .z → s.outBit q = true → s.lineLevel q = some true) ∧
      (s.extOf q = .z → s.outBit q = false → s.lineLevel q = none))

/-! The step, LOOP and ENV. -/

/-- A step runs the decoded instruction (R100, R160): with LOOP's turn next, and the word of LOOP's phase decoding to `i`, the step is one
micro-step of `exec i`; when it completes the command, `lp` goes to the next phase; then comes the epilogue. Where the meaning
stops, so does the step. -/
def Obligations.StepRunsDecodedCommand : Prop :=
  ∀ (s : State) (w : CmdWord) (i : Instr) (ms : List Move),
    s.cfg.valid = true → s.fault = .none → s.sched = .loop :: ms →
    phaseWord s.cfg s.lp = some w → decodeWord w = .ok i →
    (∀ t, exec i { s with sched := ms } = .next t →
      step s = .next
        (if t.fault = .none ∧ t.cip = .idle then (t.goto (nextPhase t.cfg t.lp)).epilogue else t.epilogue)) ∧
    (∀ r, exec i { s with sched := ms } = .fault r → step s = .fault r)

/-- A step runs a pending handler whose turn is next, then the epilogue (R205, R207, R208). -/
def Obligations.StepRunsPendingHandler : Prop :=
  ∀ (s : State) (ms : List Move), s.cfg.valid = true → s.fault = .none →
    (s.sched = .tick :: ms → s.tickPending = true →
      ∃ t, exec .tick { s with sched := ms } = .next t ∧ step s = .next t.epilogue) ∧
    (s.sched = .edge :: ms → 0 < s.edgePending →
      ∃ t, exec .edge { s with sched := ms } = .next t ∧ step s = .next t.epilogue)

/-- R88, R201, R203: LOOP issuing a word that is no command raises the decode fault with the word and no pin, before any other
check or change. -/
def Obligations.IllFormedWordFaults : Prop :=
  ∀ (s : State) (w : CmdWord) (f : DecodeFault) (ms : List Move),
    s.cfg.valid = true → s.fault = .none → s.sched = .loop :: ms →
    phaseWord s.cfg s.lp = some w → decodeWord w = .error f →
    step s = .next { s with sched := ms, fault := .ofDecode f, faultWord := w, faultPin := none }

/-- R94, R162, R231: the words LOOP issues in the controller configuration, phase by phase, and no others; EDGE's word; and in a command
list the words of the list (R123). -/
def Obligations.PhasesIssueSpecWords : Prop :=
  (∀ (cfg : Config) (ph : Phase), ph.ofController = true →
    (phaseWord cfg ph).map BitVec.toNat =
      match ph with
      | .boot0 => some (0x4005 ||| cfg.pinButton.port.val <<< 6 ||| cfg.pinButton.idx.val <<< 3)
      | .boot1 =>
        some (0x0400 ||| cfg.pinRelay1.port.val <<< 6 ||| cfg.pinRelay1.idx.val <<< 3 ||| cfg.alRelay1.toNat <<< 2)
      | .boot2 =>
        some (0x0800 ||| cfg.pinRelay2.port.val <<< 6 ||| cfg.pinRelay2.idx.val <<< 3 ||| cfg.alRelay2.toNat <<< 2)
      | .boot3 => some (0x0C00 ||| cfg.pinAux.port.val <<< 6 ||| cfg.pinAux.idx.val <<< 3 ||| cfg.alAux.toNat <<< 2)
      | .boot4 => some (0x1000 ||| cfg.pinInd.port.val <<< 6 ||| cfg.pinInd.idx.val <<< 3 ||| cfg.alInd.toNat <<< 2)
      | .a1 | .b7 => some 0x7001
      | .a2 => some 0x6401
      | .a3 => some 0x6801
      | .a3x => if cfg.auxFollowsRelays then some 0x6C01 else none
      | .b1 | .z1 => some 0x7000
      | .z2 => some 0x6400
      | .z3 => some 0x6800
      | .z3x => if cfg.auxFollowsRelays then some 0x6C00 else none
      | _ => none) ∧
  (Instr.read buttonChan).word = 0xA000 ∧
  (∀ (cfg : Config) (k : Nat), phaseWord cfg (.cmd k) = cfg.cmds[k]?)

/-- R162: the successor of every phase that issues a command, the skipped phases left out, and of a command of a list (R123). -/
def Obligations.CommandPhaseSuccessors : Prop :=
  ∀ cfg : Config,
    nextPhase cfg .boot0 = .boot1 ∧ nextPhase cfg .boot1 = .boot2 ∧ nextPhase cfg .boot2 = .boot3 ∧
    nextPhase cfg .boot3 = .boot4 ∧ nextPhase cfg .boot4 = .boot5 ∧
    nextPhase cfg .a1 = .a2 ∧ nextPhase cfg .a2 = .a3 ∧
    nextPhase cfg .a3 = (if cfg.auxFollowsRelays then .a3x else .a4) ∧ nextPhase cfg .a3x = .a4 ∧
    nextPhase cfg .b1 = .b2 ∧ nextPhase cfg .b7 = .b8 ∧
    nextPhase cfg .z1 = .z2 ∧ nextPhase cfg .z2 = .z3 ∧
    nextPhase cfg .z3 = (if cfg.auxFollowsRelays then .z3x else .z4) ∧ nextPhase cfg .z3x = .z4 ∧
    ∀ k, nextPhase cfg (.cmd k) = if k + 1 < cfg.cmds.length then .cmd (k + 1) else .done

/-- R171: the dispatch goes to `B1` if `on = 1`, otherwise to `A1`, and changes nothing else. -/
def Obligations.DispatchOnOn : Prop :=
  ∀ s : State, s.fault = .none → s.lp = .s1 →
    s.loopStep = .next { s with lp := if s.on = true then .b1 else .a1 }

/-- R170, R178, R181, R183: the latch test, the re-check and the zero check. At `S0` LOOP has a step only when it has not polled
at this instant. -/
def Obligations.LoopTests : Prop :=
  ∀ s : State, s.fault = .none →
    (s.lp = .s0 → s.polled = false → s.loopStep = .next { s with lp := if s.pressed then .s1 else .z0 }) ∧
    (s.lp = .s0 → s.polled = true → s.loopStep = .fault .notEnabled) ∧
    (s.lp = .b6 → s.loopStep = .next { s with lp := if s.pressed then .b7 else .z0 }) ∧
    (s.lp = .z0 → s.countdown = 0 → s.loopStep = .next { s with lp := .z1 }) ∧
    (s.lp = .z0 → s.countdown ≠ 0 → s.loopStep = .next { s with lp := .s0, polled := true })

/-- R172, R175, R179, R182: the arms and the switching of `on`, each in one step. For a valid configuration the countdown then holds the
constant. -/
def Obligations.LoopArms : Prop :=
  ∀ s : State, s.fault = .none → s.cfg.valid = true →
    ∃ full short : CountReg, full.toNat = s.cfg.powerOnTime ∧ short.toNat = s.cfg.pendingOffTicks ∧
      (s.lp = .a4 → s.loopStep = .next { s with countdown := full, on := true, lp := .a5 }) ∧
      (s.lp = .b2 → s.loopStep = .next { s with countdown := short, lp := .b3 }) ∧
      (s.lp = .b8 → s.loopStep = .next { s with countdown := full, lp := .b9 }) ∧
      (s.lp = .z4 → s.loopStep = .next { s with on := false, polled := true, lp := .s0 })

/-- R173, R176, R180, R167: the clear at the end of each debounce hold. -/
def Obligations.HoldsClearTheLatch : Prop :=
  ∀ s : State, s.fault = .none →
    (s.lp = .a6 → s.loopStep = .next { s with pressed := false, lp := .z0 }) ∧
    (s.lp = .b4 → s.loopStep = .next { s with pressed := false, lp := .b5 }) ∧
    (s.lp = .b10 → s.loopStep = .next { s with pressed := false, lp := .z0 })

/-- R166, R177: a wait's entry takes no time and sets its end; its exit has a step only from that end on; while LOOP is inside it time
advances at most to the end and its slack. -/
def Obligations.WaitsEndNotBefore : Prop :=
  ∀ (s : State) (x xw next : Phase) (d : Nat), s.fault = .none →
    (x = .a5 ∧ xw = .a5w ∧ next = .a6 ∧ d = s.cfg.debounceMs) ∨
    (x = .b3 ∧ xw = .b3w ∧ next = .b4 ∧ d = s.cfg.debounceMs) ∨
    (x = .b5 ∧ xw = .b5w ∧ next = .b6 ∧ d = s.cfg.sampleWaitMs) ∨
    (x = .b9 ∧ xw = .b9w ∧ next = .b10 ∧ d = s.cfg.debounceMs) →
    (s.lp = x → s.loopStep = .next { s with waitUntil := s.now + d, lp := xw }) ∧
    (s.lp = xw → s.waitUntil ≤ s.now → s.loopStep = .next { s with lp := next }) ∧
    (s.lp = xw → s.now < s.waitUntil → s.loopStep = .fault .notEnabled) ∧
    (s.lp = xw → s.enabled .advance = true → s.now + 1 ≤ s.waitUntil + s.cfg.waitSlackMs)

/-- R232: `BOOT5` enables interrupts and records the button's level in one step; its own edge detector then finds no
transition. The level is determined because the button floats with its pull-up on: 0 for `EXT = L`, else 1. -/
def Obligations.BootEnablesInterrupts : Prop :=
  ∀ s : State, s.fault = .none → s.lp = .boot5 →
    (∀ v, s.lineLevel s.cfg.pinButton = some v →
      s.loopStep = .next { s with ien := true, btnLast := v, lp := .s0 } ∧
      (State.edgeDetect { s with ien := true, btnLast := v, lp := .s0 }).edgePending = s.edgePending) ∧
    (s.dirBit s.cfg.pinButton = false → s.outBit s.cfg.pinButton = true →
      s.lineLevel s.cfg.pinButton = some (decide (s.extOf s.cfg.pinButton ≠ .l)))

/-- R186: when the time advance is enabled, and what it does. -/
def Obligations.AdvanceRule : Prop :=
  ∀ s : State,
    (s.enabled .advance = true ↔
      s.fault = .none ∧ s.tickPending = false ∧ s.edgePending = 0 ∧
        (s.lp = .s0 ∧ s.polled = true ∨
         (s.lp = .a5w ∨ s.lp = .b3w ∨ s.lp = .b5w ∨ s.lp = .b9w) ∧ s.now + 1 ≤ s.waitUntil + s.cfg.waitSlackMs ∨
         s.lp = .done)) ∧
    (s.enabled .advance = true →
      s.act .advance = .next
        { s with
          now := s.now + 1
          polled := false
          nextTick := if s.now + 1 = s.nextTick then s.nextTick + s.cfg.tickPeriodMs else s.nextTick
          tickPending := decide (s.now + 1 = s.nextTick) && s.ien })

/-- R190: `SetExt` changes the drive of its pin and nothing else, at any point of a run without a fault. -/
def Obligations.SetExtRule : Prop :=
  ∀ (s : State) (q : Pin) (e : Drive), s.fault = .none → q.port.val < s.cfg.numPorts →
    ∃ t, s.act (.setExt q e) = .next t ∧ t = { s with ext := t.ext } ∧
      ∀ r, t.extOf r = if r = q then e else s.extOf r

/-- R121, R204, R52: after a step of any agent that has not raised a command fault, if some pin is driven against its external drive, the
epilogue raises `F_CONTENTION` with word 0 and the lowest such pin, the step's effects are kept and the edge detector does not run;
otherwise the edge detector runs. -/
def Obligations.ContentionFaults : Prop :=
  ∀ (s u : State) (m : Move), s.cfg.valid = true → s.fault = .none → s.taken = some m →
    s.wanted.2.act m = .next u → u.fault = .none →
    (∀ q, u.opposed q → (∀ r, u.opposed r → pinLe q r) →
      step s = .next { u with fault := .contention, faultWord := 0x0000, faultPin := some q }) ∧
    ((∀ q, ¬ u.opposed q) → step s = .next u.edgeDetect)

/-- R145: after a step of any agent that raises no fault, while interrupts are enabled, one evaluation of the button line; a change of its level
counts one pending edge and is remembered. While they are not enabled, nothing is added to the step. The count of draws is the
model's (entry 7). -/
def Obligations.EdgeDetectorCounts : Prop :=
  ∀ (s u : State) (m : Move) (v : Bool) (d : Nat), s.cfg.valid = true → s.fault = .none → s.taken = some m →
    s.wanted.2.act m = .next u → u.fault = .none → (∀ q, ¬ u.opposed q) → u.levelGives u.cfg.pinButton v d →
    (u.ien = true → v ≠ u.btnLast →
      step s = .next { u with edgePending := u.edgePending + 1, btnLast := v, draws := d }) ∧
    (u.ien = true → v = u.btnLast → step s = .next { u with draws := d }) ∧
    (u.ien = false → step s = .next u)

/-- R201, R45: after a fault no agent has a step: no move is enabled, no meaning runs, the step stops. -/
def Obligations.FaultStopsEveryAgent : Prop :=
  ∀ s : State, s.fault ≠ .none →
    (∀ m, s.enabled m = false) ∧ (∀ i, exec i s = .fault .halted) ∧
    (s.cfg.valid = true → step s = .fault .halted)

/-- R7: the validity conditions, the refusal of a configuration that does not meet them, and the button's fixed polarity and pull-up. A pin
index is below `PORT_WIDTH` by its type. -/
def Obligations.InvalidConfigRefused : Prop :=
  (∀ cfg : Config, cfg.valid = true ↔
    1 ≤ cfg.numPorts ∧ cfg.numPorts ≤ 16 ∧
    (∀ q ∈ [cfg.pinButton, cfg.pinRelay1, cfg.pinRelay2, cfg.pinAux, cfg.pinInd], q.port.val < cfg.numPorts) ∧
    [cfg.pinButton, cfg.pinRelay1, cfg.pinRelay2, cfg.pinAux, cfg.pinInd].Nodup ∧
    cfg.powerOnTime ≤ 2 ^ 16 - 1 ∧ cfg.pendingOffTicks ≤ 2 ^ 16 - 1 ∧
    1 ≤ cfg.tickPhaseMs ∧ cfg.tickPhaseMs ≤ cfg.tickPeriodMs ∧ 1 ≤ cfg.tickPeriodMs) ∧
  (∀ s : State, s.cfg.valid = false → step s = .refused .invalidConfig) ∧
  Config.alButton = true ∧ Config.puButton = true

/-- R49: the reset value of every element the spec gives one, for every configuration, every launch drive and every schedule. -/
def Obligations.ResetValues : Prop :=
  ∀ (cfg : Config) (ext : Vector (Vector Drive 8) 16) (sched : List Move),
    let s := State.resetWith cfg ext sched
    (∀ p, s.dirOf p = 0x00 ∧ s.outOf p = 0x00) ∧ (∀ c, s.chanOf c = none ∧ s.triOf c = .none) ∧
    s.countdown = 0 ∧ s.pressed = false ∧ s.on = false ∧ s.cip = .idle ∧ s.waitUntil = 0 ∧ s.polled = false ∧
    s.ien = false ∧ s.tickPending = false ∧ s.edgePending = 0 ∧ s.btnLast = false ∧ s.now = 0 ∧
    s.nextTick = cfg.tickPhaseMs ∧ s.fault = .none ∧ s.faultWord = 0x0000 ∧ s.faultPin = none ∧ s.ext = ext ∧
    (cfg.loopMode = .controller → s.lp = .boot0) ∧ (cfg.loopMode = .commandList [] → s.lp = .done) ∧
    (∀ w ws, cfg.loopMode = .commandList (w :: ws) → s.lp = .cmd 0)

/-! Invariants that every step keeps, in every state that meets them. -/

/-- R27, R28, R35, R117, R243: bound pins exist and have one owner, a command in progress is consistent and its read not stale, and the direction bit
of a tri-state channel is "driven" exactly when the last level is not HIGH_Z (while its BIND.TRI is between its two micro-steps
excepted, entry 19). -/
def Obligations.MuxInvariantKept : Prop := ∀ s t : State, s.muxInv → step s = .next t → t.muxInv

/-- R184, R144: `on = 0` implies `countdown = 0`, with the phase facts that make it inductive. -/
def Obligations.OffMeansCountdownZero : Prop := ∀ s t : State, s.onInv → step s = .next t → t.onInv

/-- R166: time never passes the end of a wait and its slack while LOOP is inside it. -/
def Obligations.WaitWindowKept : Prop := ∀ s t : State, s.waitInv → step s = .next t → t.waitInv

/-- R141: tick instants are `TICK_PHASE_MS + k * TICK_PERIOD_MS`, and the next one is always ahead by at most one period. -/
def Obligations.TickScheduleKept : Prop := ∀ s t : State, s.tickInv → step s = .next t → t.tickInv

/-- R39, R52: no event is recorded while interrupts are not enabled, and the fault record is empty while there is no fault. -/
def Obligations.EventAndFaultRecordsKept : Prop :=
  ∀ s t : State, s.ienInv ∧ s.faultInv → step s = .next t → t.ienInv ∧ t.faultInv

/-- R200, R191: in the controller configuration, from every state of the invariant, a step under a move that keeps ENV's duty answers a next
state, in the invariant again: no fault, and no state without a step. -/
def Obligations.ControllerNeverFaults : Prop :=
  ∀ s : State, s.controllerInv → (∀ m, s.taken = some m → dutiful s.wanted.2 m) →
    ∃ t, step s = .next t ∧ t.controllerInv

/-- R172, R182, R193, R194, R196, R198, R50: in the controller configuration the relays, and the auxiliary output where it follows them, show
logical 1 for as long as `on = 1`, up to their own write of the power-off. While `on = 0` they and the indicator show logical 0: the end of a
power-off establishes it, and every step keeps it until their own write of a press while OFF. -/
def Obligations.RelaysFollowOn : Prop :=
  ∀ s t : State, s.controllerInv → s.relayInv → step s = .next t →
    t.relayInv ∧ (s.lp = .z4 → t.offInv) ∧ (s.onInv → s.offInv → t.offInv)

/-- The invariants hold at reset, for every valid configuration, every launch drive (R236) and every schedule; the controller's in the
controller configuration. -/
def Obligations.InvariantsHoldAtReset : Prop :=
  ∀ (cfg : Config) (ext : Vector (Vector Drive 8) 16) (sched : List Move), cfg.valid = true →
    let s := State.resetWith cfg ext sched
    s.muxInv ∧ s.onInv ∧ s.waitInv ∧ s.tickInv ∧ s.ienInv ∧ s.faultInv ∧ s.relayInv ∧
    (cfg.loopMode = .controller → s.controllerInv)

/-! Rules of the whole machine. -/

/-- R48 and the ownership parts of R31 to R44: only EDGE sets `pressed` and only LOOP clears it; the countdown changes only by TICK's decrement
and LOOP's arms; only LOOP writes the mux registers, `on`, `lp`, `cip`, `waitUntil` and `ien`; only ENV moves time and the drives; only LOOP
sets `polled` and only Advance clears it (R37); the edge detector adds at most one pending edge to a step, and only with it, or at
`BOOT5`, does `btnLast` change (R41, R42); TICK and ENV raise no fault but contention, and the fault record is written with a fault
alone (R45, R52). -/
def Obligations.OnlyTheOwnerWrites : Prop :=
  ∀ (s t : State) (m : Move), step s = .next t → s.taken = some m →
    (m ≠ .edge → t.pressed = true → s.pressed = true) ∧
    (m ≠ .loop → s.pressed = true → t.pressed = true) ∧
    (m = .tick → t.countdown.toNat = s.countdown.toNat - 1) ∧
    (m = .loop → t.countdown = s.countdown ∨ t.countdown = BitVec.ofNat 16 s.cfg.powerOnTime ∨
      t.countdown = BitVec.ofNat 16 s.cfg.pendingOffTicks) ∧
    (m ≠ .tick → m ≠ .loop → t.countdown = s.countdown) ∧
    (m ≠ .loop → t.dir = s.dir ∧ t.out = s.out ∧ t.chan = s.chan ∧ t.triLast = s.triLast ∧ t.on = s.on ∧
      t.lp = s.lp ∧ t.cip = s.cip ∧ t.waitUntil = s.waitUntil ∧ t.rdLoop = s.rdLoop ∧ t.ien = s.ien) ∧
    (m ≠ .edge → t.rdEdge = s.rdEdge ∧ s.edgePending ≤ t.edgePending) ∧
    (m ≠ .tick → s.tickPending = true → t.tickPending = true) ∧
    (m ≠ .advance → t.now = s.now ∧ t.nextTick = s.nextTick ∧ (t.tickPending = true → s.tickPending = true)) ∧
    (m = .advance → t.now = s.now + 1) ∧
    ((∀ q e, m ≠ .setExt q e) → t.ext = s.ext) ∧
    (m ≠ .loop → m ≠ .advance → t.polled = s.polled) ∧
    (m = .loop → s.polled = true → t.polled = true) ∧
    (m = .advance → t.polled = false) ∧
    (m = .edge → t.edgePending ≤ s.edgePending ∧ s.edgePending ≤ t.edgePending + 1) ∧
    t.edgePending ≤ s.edgePending + 1 ∧
    (t.btnLast ≠ s.btnLast → ¬ (m = .loop ∧ s.lp = .boot5) →
      s.ien = true ∧ t.edgePending = if m = .edge then s.edgePending else s.edgePending + 1) ∧
    (m ≠ .loop → m ≠ .edge → t.fault = .none ∨ t.fault = .contention) ∧
    (t.fault = .none → t.faultWord = s.faultWord ∧ t.faultPin = s.faultPin)

/-- R46, R28, R39: no step writes the configuration, no step changes or removes a binding, and none clears `ien`. -/
def Obligations.ConfigAndBindingsFixed : Prop :=
  ∀ s t : State, step s = .next t →
    t.cfg = s.cfg ∧ (∀ c b, s.chanOf c = some b → t.chanOf c = some b) ∧ (s.ien = true → t.ien = true)

/-- R196: while LOOP handles a press while ON, no step writes a relay's direction or output bit. -/
def Obligations.RelaysKeptDuringPressWhileOn : Prop :=
  ∀ s t : State, s.controllerInv → s.lp.pressWhileOn = true → step s = .next t →
    t.outBit s.cfg.pinRelay1 = s.outBit s.cfg.pinRelay1 ∧ t.outBit s.cfg.pinRelay2 = s.outBit s.cfg.pinRelay2 ∧
    t.dirBit s.cfg.pinRelay1 = s.dirBit s.cfg.pinRelay1 ∧ t.dirBit s.cfg.pinRelay2 = s.dirBit s.cfg.pinRelay2

/-- R70, R246: at a tick instant the decrement and the zero check may come in either order; with `countdown = 1` one order powers off at this
instant, the other polls once more. -/
def Obligations.CountdownRaceBothOrders : Prop :=
  ∀ (s : State) (ms : List Move), s.cfg.valid = true → s.fault = .none → s.lp = .z0 → s.tickPending = true →
    s.countdown = 1 → (∀ q, ¬ s.opposed q) →
    (∃ t u, step { s with sched := .tick :: .loop :: ms } = .next t ∧ step t = .next u ∧
      u.countdown = 0 ∧ u.lp = .z1 ∧ u.polled = s.polled) ∧
    (∃ t u, step { s with sched := .loop :: .tick :: ms } = .next t ∧ step t = .next u ∧
      u.countdown = 0 ∧ u.lp = .s0 ∧ u.polled = true)

/-- R168, R244: a press latched just before the clear of `B4` is lost; one latched just after it is kept. -/
def Obligations.PressAtClearBothOrders : Prop :=
  ∀ (s : State) (q : Pin) (ms : List Move), s.cfg.valid = true → s.fault = .none → s.lp = .b4 →
    0 < s.edgePending → s.chanOf 0 = some ⟨.inp, q, true, true⟩ → s.dirBit q = false → s.extOf q = .l →
    (∀ r, ¬ s.opposed r) →
    (∃ t u, step { s with sched := .edge :: .loop :: ms } = .next t ∧ step t = .next u ∧
      t.pressed = true ∧ u.pressed = false ∧ u.lp = .b5) ∧
    (∃ t u, step { s with sched := .loop :: .edge :: ms } = .next t ∧ step t = .next u ∧
      t.pressed = false ∧ u.pressed = true ∧ u.lp = .b5)

/-- R148, R252: EDGE reads the level when it runs: a press and a release before either handler run count two edges and latch nothing;
with EDGE between them the press is latched. -/
def Obligations.LateLevelBothOrders : Prop :=
  ∀ (s : State) (q : Pin) (ms : List Move), s.cfg.valid = true → s.fault = .none → s.ien = true →
    s.cfg.pinButton = q → s.chanOf 0 = some ⟨.inp, q, true, true⟩ → s.dirBit q = false → s.outBit q = true →
    s.extOf q = .z → s.btnLast = true → s.edgePending = 0 → s.pressed = false → (∀ r, ¬ s.opposed r) →
    (∃ t, core.run 4 { s with sched := .setExt q .l :: .setExt q .z :: .edge :: .edge :: ms } = .next t ∧
      t.pressed = false ∧ t.edgePending = 0 ∧ t.rdEdge = false) ∧
    (∃ t, core.run 4 { s with sched := .setExt q .l :: .edge :: .setExt q .z :: .edge :: ms } = .next t ∧
      t.pressed = true ∧ t.edgePending = 0 ∧ t.rdEdge = false)

/-- R191: the drive of a pin that is unbound, floating and not the button's gives nothing back: whatever it is, a step does the same to
everything else. -/
def Obligations.UnboundPinIsInvisible : Prop :=
  ∀ (s : State) (q : Pin) (e : Drive), s.muxInv → s.dirBit q = false → q ≠ s.cfg.pinButton →
    (∀ c b, s.chanOf c = some b → b.pin ≠ q) →
    mapNext (fun t => t.setExt q .z) (step (s.setExt q e)) = mapNext (fun t => t.setExt q .z) (step s)
end

