-- ==== Sys2Proof/Laws/Decode.lean ====
section
/-! SUPPORT. The fields of an assembled command word are the fields it was assembled from, and a word is assembled from its own
fields (R81, R83). -/

namespace Sys2Proof

variable (op ch : BitVec 3) (port : BitVec 4) (idx : BitVec 3) (al : Bool) (arg : BitVec 2)

/-- Bit `j` of an assembled word, field by field. -/
theorem getLsbD_assemble (j : Nat) :
    (assemble op ch port idx al arg).getLsbD j =
      (decide (j < 16) &&
        (decide (13 ≤ j) && op.getLsbD (j - 13) || decide (10 ≤ j) && ch.getLsbD (j - 10) ||
          decide (6 ≤ j) && port.getLsbD (j - 6) || decide (3 ≤ j) && idx.getLsbD (j - 3) ||
          decide (j = 2) && al || arg.getLsbD j)) := by
  by_cases h : j < 16
  · interval_cases j <;> simp [assemble]
  · simp [assemble, h]

@[simp] theorem opField_assemble : opField (assemble op ch port idx al arg) = op := by
  refine BitVec.eq_of_getLsbD_eq fun j hj => ?_
  rw [opField, BitVec.getLsbD_extractLsb', getLsbD_assemble]
  interval_cases j <;> simp

@[simp] theorem chField_assemble (c : Chan) :
    chField (assemble op (chBits c) port idx al arg) = c := by
  have h : (assemble op (chBits c) port idx al arg).extractLsb' 10 3 = chBits c := by
    refine BitVec.eq_of_getLsbD_eq fun j hj => ?_
    rw [BitVec.getLsbD_extractLsb', getLsbD_assemble]
    interval_cases j <;> simp
  unfold chField
  rw [h]; rfl

@[simp] theorem portField_assemble (p : PortNo) :
    portField (assemble op ch (portBits p) idx al arg) = p := by
  have h : (assemble op ch (portBits p) idx al arg).extractLsb' 6 4 = portBits p := by
    refine BitVec.eq_of_getLsbD_eq fun j hj => ?_
    rw [BitVec.getLsbD_extractLsb', getLsbD_assemble]
    interval_cases j <;> simp
  unfold portField
  rw [h]; rfl

@[simp] theorem idxField_assemble (i : PinIdx) :
    idxField (assemble op ch port (idxBits i) al arg) = i := by
  have h : (assemble op ch port (idxBits i) al arg).extractLsb' 3 3 = idxBits i := by
    refine BitVec.eq_of_getLsbD_eq fun j hj => ?_
    rw [BitVec.getLsbD_extractLsb', getLsbD_assemble]
    interval_cases j <;> simp
  unfold idxField
  rw [h]; rfl

@[simp] theorem alField_assemble : alField (assemble op ch port idx al arg) = al := by
  rw [alField, getLsbD_assemble]
  simp

@[simp] theorem argField_assemble : argField (assemble op ch port idx al arg) = arg := by
  refine BitVec.eq_of_getLsbD_eq fun j hj => ?_
  rw [argField, BitVec.getLsbD_extractLsb', getLsbD_assemble]
  interval_cases j <;> simp

/-- A word is assembled from its own fields. -/
theorem assemble_fields (w : CmdWord) :
    assemble (opField w) (w.extractLsb' 10 3) (w.extractLsb' 6 4) (w.extractLsb' 3 3) (alField w) (argField w) = w := by
  refine BitVec.eq_of_getLsbD_eq fun j hj => ?_
  rw [getLsbD_assemble]
  interval_cases j <;> simp [opField, alField, argField]

end Sys2Proof
end

