-- ==== Sys2Proof/Laws/State.lean ====
section
/-! SUPPORT. What each named register update does to each field of the state: one lemma per field per update. -/

namespace Sys2Proof.Machine.State

variable (s : State)

/-! `setDir` -/

@[simp] theorem setDir_cfg (p : PortNo) (v : PortReg) : (s.setDir p v).cfg = s.cfg := rfl
@[simp] theorem setDir_out (p : PortNo) (v : PortReg) : (s.setDir p v).out = s.out := rfl
@[simp] theorem setDir_ext (p : PortNo) (v : PortReg) : (s.setDir p v).ext = s.ext := rfl
@[simp] theorem setDir_chan (p : PortNo) (v : PortReg) : (s.setDir p v).chan = s.chan := rfl
@[simp] theorem setDir_triLast (p : PortNo) (v : PortReg) : (s.setDir p v).triLast = s.triLast := rfl
@[simp] theorem setDir_countdown (p : PortNo) (v : PortReg) : (s.setDir p v).countdown = s.countdown := rfl
@[simp] theorem setDir_pressed (p : PortNo) (v : PortReg) : (s.setDir p v).pressed = s.pressed := rfl
@[simp] theorem setDir_on (p : PortNo) (v : PortReg) : (s.setDir p v).on = s.on := rfl
@[simp] theorem setDir_lp (p : PortNo) (v : PortReg) : (s.setDir p v).lp = s.lp := rfl
@[simp] theorem setDir_cip (p : PortNo) (v : PortReg) : (s.setDir p v).cip = s.cip := rfl
@[simp] theorem setDir_waitUntil (p : PortNo) (v : PortReg) : (s.setDir p v).waitUntil = s.waitUntil := rfl
@[simp] theorem setDir_polled (p : PortNo) (v : PortReg) : (s.setDir p v).polled = s.polled := rfl
@[simp] theorem setDir_rdLoop (p : PortNo) (v : PortReg) : (s.setDir p v).rdLoop = s.rdLoop := rfl
@[simp] theorem setDir_rdEdge (p : PortNo) (v : PortReg) : (s.setDir p v).rdEdge = s.rdEdge := rfl
@[simp] theorem setDir_ien (p : PortNo) (v : PortReg) : (s.setDir p v).ien = s.ien := rfl
@[simp] theorem setDir_tickPending (p : PortNo) (v : PortReg) : (s.setDir p v).tickPending = s.tickPending := rfl
@[simp] theorem setDir_edgePending (p : PortNo) (v : PortReg) : (s.setDir p v).edgePending = s.edgePending := rfl
@[simp] theorem setDir_btnLast (p : PortNo) (v : PortReg) : (s.setDir p v).btnLast = s.btnLast := rfl
@[simp] theorem setDir_now (p : PortNo) (v : PortReg) : (s.setDir p v).now = s.now := rfl
@[simp] theorem setDir_nextTick (p : PortNo) (v : PortReg) : (s.setDir p v).nextTick = s.nextTick := rfl
@[simp] theorem setDir_fault (p : PortNo) (v : PortReg) : (s.setDir p v).fault = s.fault := rfl
@[simp] theorem setDir_faultWord (p : PortNo) (v : PortReg) : (s.setDir p v).faultWord = s.faultWord := rfl
@[simp] theorem setDir_faultPin (p : PortNo) (v : PortReg) : (s.setDir p v).faultPin = s.faultPin := rfl
@[simp] theorem setDir_sched (p : PortNo) (v : PortReg) : (s.setDir p v).sched = s.sched := rfl
@[simp] theorem setDir_picks (p : PortNo) (v : PortReg) : (s.setDir p v).picks = s.picks := rfl
@[simp] theorem setDir_draws (p : PortNo) (v : PortReg) : (s.setDir p v).draws = s.draws := rfl

/-! `setOut` -/

@[simp] theorem setOut_cfg (p : PortNo) (v : PortReg) : (s.setOut p v).cfg = s.cfg := rfl
@[simp] theorem setOut_dir (p : PortNo) (v : PortReg) : (s.setOut p v).dir = s.dir := rfl
@[simp] theorem setOut_ext (p : PortNo) (v : PortReg) : (s.setOut p v).ext = s.ext := rfl
@[simp] theorem setOut_chan (p : PortNo) (v : PortReg) : (s.setOut p v).chan = s.chan := rfl
@[simp] theorem setOut_triLast (p : PortNo) (v : PortReg) : (s.setOut p v).triLast = s.triLast := rfl
@[simp] theorem setOut_countdown (p : PortNo) (v : PortReg) : (s.setOut p v).countdown = s.countdown := rfl
@[simp] theorem setOut_pressed (p : PortNo) (v : PortReg) : (s.setOut p v).pressed = s.pressed := rfl
@[simp] theorem setOut_on (p : PortNo) (v : PortReg) : (s.setOut p v).on = s.on := rfl
@[simp] theorem setOut_lp (p : PortNo) (v : PortReg) : (s.setOut p v).lp = s.lp := rfl
@[simp] theorem setOut_cip (p : PortNo) (v : PortReg) : (s.setOut p v).cip = s.cip := rfl
@[simp] theorem setOut_waitUntil (p : PortNo) (v : PortReg) : (s.setOut p v).waitUntil = s.waitUntil := rfl
@[simp] theorem setOut_polled (p : PortNo) (v : PortReg) : (s.setOut p v).polled = s.polled := rfl
@[simp] theorem setOut_rdLoop (p : PortNo) (v : PortReg) : (s.setOut p v).rdLoop = s.rdLoop := rfl
@[simp] theorem setOut_rdEdge (p : PortNo) (v : PortReg) : (s.setOut p v).rdEdge = s.rdEdge := rfl
@[simp] theorem setOut_ien (p : PortNo) (v : PortReg) : (s.setOut p v).ien = s.ien := rfl
@[simp] theorem setOut_tickPending (p : PortNo) (v : PortReg) : (s.setOut p v).tickPending = s.tickPending := rfl
@[simp] theorem setOut_edgePending (p : PortNo) (v : PortReg) : (s.setOut p v).edgePending = s.edgePending := rfl
@[simp] theorem setOut_btnLast (p : PortNo) (v : PortReg) : (s.setOut p v).btnLast = s.btnLast := rfl
@[simp] theorem setOut_now (p : PortNo) (v : PortReg) : (s.setOut p v).now = s.now := rfl
@[simp] theorem setOut_nextTick (p : PortNo) (v : PortReg) : (s.setOut p v).nextTick = s.nextTick := rfl
@[simp] theorem setOut_fault (p : PortNo) (v : PortReg) : (s.setOut p v).fault = s.fault := rfl
@[simp] theorem setOut_faultWord (p : PortNo) (v : PortReg) : (s.setOut p v).faultWord = s.faultWord := rfl
@[simp] theorem setOut_faultPin (p : PortNo) (v : PortReg) : (s.setOut p v).faultPin = s.faultPin := rfl
@[simp] theorem setOut_sched (p : PortNo) (v : PortReg) : (s.setOut p v).sched = s.sched := rfl
@[simp] theorem setOut_picks (p : PortNo) (v : PortReg) : (s.setOut p v).picks = s.picks := rfl
@[simp] theorem setOut_draws (p : PortNo) (v : PortReg) : (s.setOut p v).draws = s.draws := rfl

/-! `setExt` -/

@[simp] theorem setExt_cfg (pin : Pin) (e : Drive) : (s.setExt pin e).cfg = s.cfg := rfl
@[simp] theorem setExt_dir (pin : Pin) (e : Drive) : (s.setExt pin e).dir = s.dir := rfl
@[simp] theorem setExt_out (pin : Pin) (e : Drive) : (s.setExt pin e).out = s.out := rfl
@[simp] theorem setExt_chan (pin : Pin) (e : Drive) : (s.setExt pin e).chan = s.chan := rfl
@[simp] theorem setExt_triLast (pin : Pin) (e : Drive) : (s.setExt pin e).triLast = s.triLast := rfl
@[simp] theorem setExt_countdown (pin : Pin) (e : Drive) : (s.setExt pin e).countdown = s.countdown := rfl
@[simp] theorem setExt_pressed (pin : Pin) (e : Drive) : (s.setExt pin e).pressed = s.pressed := rfl
@[simp] theorem setExt_on (pin : Pin) (e : Drive) : (s.setExt pin e).on = s.on := rfl
@[simp] theorem setExt_lp (pin : Pin) (e : Drive) : (s.setExt pin e).lp = s.lp := rfl
@[simp] theorem setExt_cip (pin : Pin) (e : Drive) : (s.setExt pin e).cip = s.cip := rfl
@[simp] theorem setExt_waitUntil (pin : Pin) (e : Drive) : (s.setExt pin e).waitUntil = s.waitUntil := rfl
@[simp] theorem setExt_polled (pin : Pin) (e : Drive) : (s.setExt pin e).polled = s.polled := rfl
@[simp] theorem setExt_rdLoop (pin : Pin) (e : Drive) : (s.setExt pin e).rdLoop = s.rdLoop := rfl
@[simp] theorem setExt_rdEdge (pin : Pin) (e : Drive) : (s.setExt pin e).rdEdge = s.rdEdge := rfl
@[simp] theorem setExt_ien (pin : Pin) (e : Drive) : (s.setExt pin e).ien = s.ien := rfl
@[simp] theorem setExt_tickPending (pin : Pin) (e : Drive) : (s.setExt pin e).tickPending = s.tickPending := rfl
@[simp] theorem setExt_edgePending (pin : Pin) (e : Drive) : (s.setExt pin e).edgePending = s.edgePending := rfl
@[simp] theorem setExt_btnLast (pin : Pin) (e : Drive) : (s.setExt pin e).btnLast = s.btnLast := rfl
@[simp] theorem setExt_now (pin : Pin) (e : Drive) : (s.setExt pin e).now = s.now := rfl
@[simp] theorem setExt_nextTick (pin : Pin) (e : Drive) : (s.setExt pin e).nextTick = s.nextTick := rfl
@[simp] theorem setExt_fault (pin : Pin) (e : Drive) : (s.setExt pin e).fault = s.fault := rfl
@[simp] theorem setExt_faultWord (pin : Pin) (e : Drive) : (s.setExt pin e).faultWord = s.faultWord := rfl
@[simp] theorem setExt_faultPin (pin : Pin) (e : Drive) : (s.setExt pin e).faultPin = s.faultPin := rfl
@[simp] theorem setExt_sched (pin : Pin) (e : Drive) : (s.setExt pin e).sched = s.sched := rfl
@[simp] theorem setExt_picks (pin : Pin) (e : Drive) : (s.setExt pin e).picks = s.picks := rfl
@[simp] theorem setExt_draws (pin : Pin) (e : Drive) : (s.setExt pin e).draws = s.draws := rfl

/-! `setChan` -/

@[simp] theorem setChan_cfg (c : Chan) (b : Binding) : (s.setChan c b).cfg = s.cfg := rfl
@[simp] theorem setChan_dir (c : Chan) (b : Binding) : (s.setChan c b).dir = s.dir := rfl
@[simp] theorem setChan_out (c : Chan) (b : Binding) : (s.setChan c b).out = s.out := rfl
@[simp] theorem setChan_ext (c : Chan) (b : Binding) : (s.setChan c b).ext = s.ext := rfl
@[simp] theorem setChan_triLast (c : Chan) (b : Binding) : (s.setChan c b).triLast = s.triLast := rfl
@[simp] theorem setChan_countdown (c : Chan) (b : Binding) : (s.setChan c b).countdown = s.countdown := rfl
@[simp] theorem setChan_pressed (c : Chan) (b : Binding) : (s.setChan c b).pressed = s.pressed := rfl
@[simp] theorem setChan_on (c : Chan) (b : Binding) : (s.setChan c b).on = s.on := rfl
@[simp] theorem setChan_lp (c : Chan) (b : Binding) : (s.setChan c b).lp = s.lp := rfl
@[simp] theorem setChan_cip (c : Chan) (b : Binding) : (s.setChan c b).cip = s.cip := rfl
@[simp] theorem setChan_waitUntil (c : Chan) (b : Binding) : (s.setChan c b).waitUntil = s.waitUntil := rfl
@[simp] theorem setChan_polled (c : Chan) (b : Binding) : (s.setChan c b).polled = s.polled := rfl
@[simp] theorem setChan_rdLoop (c : Chan) (b : Binding) : (s.setChan c b).rdLoop = s.rdLoop := rfl
@[simp] theorem setChan_rdEdge (c : Chan) (b : Binding) : (s.setChan c b).rdEdge = s.rdEdge := rfl
@[simp] theorem setChan_ien (c : Chan) (b : Binding) : (s.setChan c b).ien = s.ien := rfl
@[simp] theorem setChan_tickPending (c : Chan) (b : Binding) : (s.setChan c b).tickPending = s.tickPending := rfl
@[simp] theorem setChan_edgePending (c : Chan) (b : Binding) : (s.setChan c b).edgePending = s.edgePending := rfl
@[simp] theorem setChan_btnLast (c : Chan) (b : Binding) : (s.setChan c b).btnLast = s.btnLast := rfl
@[simp] theorem setChan_now (c : Chan) (b : Binding) : (s.setChan c b).now = s.now := rfl
@[simp] theorem setChan_nextTick (c : Chan) (b : Binding) : (s.setChan c b).nextTick = s.nextTick := rfl
@[simp] theorem setChan_fault (c : Chan) (b : Binding) : (s.setChan c b).fault = s.fault := rfl
@[simp] theorem setChan_faultWord (c : Chan) (b : Binding) : (s.setChan c b).faultWord = s.faultWord := rfl
@[simp] theorem setChan_faultPin (c : Chan) (b : Binding) : (s.setChan c b).faultPin = s.faultPin := rfl
@[simp] theorem setChan_sched (c : Chan) (b : Binding) : (s.setChan c b).sched = s.sched := rfl
@[simp] theorem setChan_picks (c : Chan) (b : Binding) : (s.setChan c b).picks = s.picks := rfl
@[simp] theorem setChan_draws (c : Chan) (b : Binding) : (s.setChan c b).draws = s.draws := rfl

/-! `setTri` -/

@[simp] theorem setTri_cfg (c : Chan) (l : TriLast) : (s.setTri c l).cfg = s.cfg := rfl
@[simp] theorem setTri_dir (c : Chan) (l : TriLast) : (s.setTri c l).dir = s.dir := rfl
@[simp] theorem setTri_out (c : Chan) (l : TriLast) : (s.setTri c l).out = s.out := rfl
@[simp] theorem setTri_ext (c : Chan) (l : TriLast) : (s.setTri c l).ext = s.ext := rfl
@[simp] theorem setTri_chan (c : Chan) (l : TriLast) : (s.setTri c l).chan = s.chan := rfl
@[simp] theorem setTri_countdown (c : Chan) (l : TriLast) : (s.setTri c l).countdown = s.countdown := rfl
@[simp] theorem setTri_pressed (c : Chan) (l : TriLast) : (s.setTri c l).pressed = s.pressed := rfl
@[simp] theorem setTri_on (c : Chan) (l : TriLast) : (s.setTri c l).on = s.on := rfl
@[simp] theorem setTri_lp (c : Chan) (l : TriLast) : (s.setTri c l).lp = s.lp := rfl
@[simp] theorem setTri_cip (c : Chan) (l : TriLast) : (s.setTri c l).cip = s.cip := rfl
@[simp] theorem setTri_waitUntil (c : Chan) (l : TriLast) : (s.setTri c l).waitUntil = s.waitUntil := rfl
@[simp] theorem setTri_polled (c : Chan) (l : TriLast) : (s.setTri c l).polled = s.polled := rfl
@[simp] theorem setTri_rdLoop (c : Chan) (l : TriLast) : (s.setTri c l).rdLoop = s.rdLoop := rfl
@[simp] theorem setTri_rdEdge (c : Chan) (l : TriLast) : (s.setTri c l).rdEdge = s.rdEdge := rfl
@[simp] theorem setTri_ien (c : Chan) (l : TriLast) : (s.setTri c l).ien = s.ien := rfl
@[simp] theorem setTri_tickPending (c : Chan) (l : TriLast) : (s.setTri c l).tickPending = s.tickPending := rfl
@[simp] theorem setTri_edgePending (c : Chan) (l : TriLast) : (s.setTri c l).edgePending = s.edgePending := rfl
@[simp] theorem setTri_btnLast (c : Chan) (l : TriLast) : (s.setTri c l).btnLast = s.btnLast := rfl
@[simp] theorem setTri_now (c : Chan) (l : TriLast) : (s.setTri c l).now = s.now := rfl
@[simp] theorem setTri_nextTick (c : Chan) (l : TriLast) : (s.setTri c l).nextTick = s.nextTick := rfl
@[simp] theorem setTri_fault (c : Chan) (l : TriLast) : (s.setTri c l).fault = s.fault := rfl
@[simp] theorem setTri_faultWord (c : Chan) (l : TriLast) : (s.setTri c l).faultWord = s.faultWord := rfl
@[simp] theorem setTri_faultPin (c : Chan) (l : TriLast) : (s.setTri c l).faultPin = s.faultPin := rfl
@[simp] theorem setTri_sched (c : Chan) (l : TriLast) : (s.setTri c l).sched = s.sched := rfl
@[simp] theorem setTri_picks (c : Chan) (l : TriLast) : (s.setTri c l).picks = s.picks := rfl
@[simp] theorem setTri_draws (c : Chan) (l : TriLast) : (s.setTri c l).draws = s.draws := rfl

/-! `setCip` -/

@[simp] theorem setCip_cfg (v : Cip) : (s.setCip v).cfg = s.cfg := rfl
@[simp] theorem setCip_dir (v : Cip) : (s.setCip v).dir = s.dir := rfl
@[simp] theorem setCip_out (v : Cip) : (s.setCip v).out = s.out := rfl
@[simp] theorem setCip_ext (v : Cip) : (s.setCip v).ext = s.ext := rfl
@[simp] theorem setCip_chan (v : Cip) : (s.setCip v).chan = s.chan := rfl
@[simp] theorem setCip_triLast (v : Cip) : (s.setCip v).triLast = s.triLast := rfl
@[simp] theorem setCip_countdown (v : Cip) : (s.setCip v).countdown = s.countdown := rfl
@[simp] theorem setCip_pressed (v : Cip) : (s.setCip v).pressed = s.pressed := rfl
@[simp] theorem setCip_on (v : Cip) : (s.setCip v).on = s.on := rfl
@[simp] theorem setCip_lp (v : Cip) : (s.setCip v).lp = s.lp := rfl
@[simp] theorem setCip_cip (v : Cip) : (s.setCip v).cip = v := rfl
@[simp] theorem setCip_waitUntil (v : Cip) : (s.setCip v).waitUntil = s.waitUntil := rfl
@[simp] theorem setCip_polled (v : Cip) : (s.setCip v).polled = s.polled := rfl
@[simp] theorem setCip_rdLoop (v : Cip) : (s.setCip v).rdLoop = s.rdLoop := rfl
@[simp] theorem setCip_rdEdge (v : Cip) : (s.setCip v).rdEdge = s.rdEdge := rfl
@[simp] theorem setCip_ien (v : Cip) : (s.setCip v).ien = s.ien := rfl
@[simp] theorem setCip_tickPending (v : Cip) : (s.setCip v).tickPending = s.tickPending := rfl
@[simp] theorem setCip_edgePending (v : Cip) : (s.setCip v).edgePending = s.edgePending := rfl
@[simp] theorem setCip_btnLast (v : Cip) : (s.setCip v).btnLast = s.btnLast := rfl
@[simp] theorem setCip_now (v : Cip) : (s.setCip v).now = s.now := rfl
@[simp] theorem setCip_nextTick (v : Cip) : (s.setCip v).nextTick = s.nextTick := rfl
@[simp] theorem setCip_fault (v : Cip) : (s.setCip v).fault = s.fault := rfl
@[simp] theorem setCip_faultWord (v : Cip) : (s.setCip v).faultWord = s.faultWord := rfl
@[simp] theorem setCip_faultPin (v : Cip) : (s.setCip v).faultPin = s.faultPin := rfl
@[simp] theorem setCip_sched (v : Cip) : (s.setCip v).sched = s.sched := rfl
@[simp] theorem setCip_picks (v : Cip) : (s.setCip v).picks = s.picks := rfl
@[simp] theorem setCip_draws (v : Cip) : (s.setCip v).draws = s.draws := rfl

/-! `goto` -/

@[simp] theorem goto_cfg (ph : Phase) : (s.goto ph).cfg = s.cfg := rfl
@[simp] theorem goto_dir (ph : Phase) : (s.goto ph).dir = s.dir := rfl
@[simp] theorem goto_out (ph : Phase) : (s.goto ph).out = s.out := rfl
@[simp] theorem goto_ext (ph : Phase) : (s.goto ph).ext = s.ext := rfl
@[simp] theorem goto_chan (ph : Phase) : (s.goto ph).chan = s.chan := rfl
@[simp] theorem goto_triLast (ph : Phase) : (s.goto ph).triLast = s.triLast := rfl
@[simp] theorem goto_countdown (ph : Phase) : (s.goto ph).countdown = s.countdown := rfl
@[simp] theorem goto_pressed (ph : Phase) : (s.goto ph).pressed = s.pressed := rfl
@[simp] theorem goto_on (ph : Phase) : (s.goto ph).on = s.on := rfl
@[simp] theorem goto_lp (ph : Phase) : (s.goto ph).lp = ph := rfl
@[simp] theorem goto_cip (ph : Phase) : (s.goto ph).cip = s.cip := rfl
@[simp] theorem goto_waitUntil (ph : Phase) : (s.goto ph).waitUntil = s.waitUntil := rfl
@[simp] theorem goto_polled (ph : Phase) : (s.goto ph).polled = s.polled := rfl
@[simp] theorem goto_rdLoop (ph : Phase) : (s.goto ph).rdLoop = s.rdLoop := rfl
@[simp] theorem goto_rdEdge (ph : Phase) : (s.goto ph).rdEdge = s.rdEdge := rfl
@[simp] theorem goto_ien (ph : Phase) : (s.goto ph).ien = s.ien := rfl
@[simp] theorem goto_tickPending (ph : Phase) : (s.goto ph).tickPending = s.tickPending := rfl
@[simp] theorem goto_edgePending (ph : Phase) : (s.goto ph).edgePending = s.edgePending := rfl
@[simp] theorem goto_btnLast (ph : Phase) : (s.goto ph).btnLast = s.btnLast := rfl
@[simp] theorem goto_now (ph : Phase) : (s.goto ph).now = s.now := rfl
@[simp] theorem goto_nextTick (ph : Phase) : (s.goto ph).nextTick = s.nextTick := rfl
@[simp] theorem goto_fault (ph : Phase) : (s.goto ph).fault = s.fault := rfl
@[simp] theorem goto_faultWord (ph : Phase) : (s.goto ph).faultWord = s.faultWord := rfl
@[simp] theorem goto_faultPin (ph : Phase) : (s.goto ph).faultPin = s.faultPin := rfl
@[simp] theorem goto_sched (ph : Phase) : (s.goto ph).sched = s.sched := rfl
@[simp] theorem goto_picks (ph : Phase) : (s.goto ph).picks = s.picks := rfl
@[simp] theorem goto_draws (ph : Phase) : (s.goto ph).draws = s.draws := rfl

/-! `raise`: only the fault record may change. -/

@[simp] theorem raise_cfg (k : FaultCode) (w : CmdWord) (q : Option Pin) : (s.raise k w q).cfg = s.cfg := by
  unfold State.raise; split <;> rfl
@[simp] theorem raise_dir (k : FaultCode) (w : CmdWord) (q : Option Pin) : (s.raise k w q).dir = s.dir := by
  unfold State.raise; split <;> rfl
@[simp] theorem raise_out (k : FaultCode) (w : CmdWord) (q : Option Pin) : (s.raise k w q).out = s.out := by
  unfold State.raise; split <;> rfl
@[simp] theorem raise_ext (k : FaultCode) (w : CmdWord) (q : Option Pin) : (s.raise k w q).ext = s.ext := by
  unfold State.raise; split <;> rfl
@[simp] theorem raise_chan (k : FaultCode) (w : CmdWord) (q : Option Pin) : (s.raise k w q).chan = s.chan := by
  unfold State.raise; split <;> rfl
@[simp] theorem raise_triLast (k : FaultCode) (w : CmdWord) (q : Option Pin) : (s.raise k w q).triLast = s.triLast := by
  unfold State.raise; split <;> rfl
@[simp] theorem raise_countdown (k : FaultCode) (w : CmdWord) (q : Option Pin) : (s.raise k w q).countdown = s.countdown := by
  unfold State.raise; split <;> rfl
@[simp] theorem raise_pressed (k : FaultCode) (w : CmdWord) (q : Option Pin) : (s.raise k w q).pressed = s.pressed := by
  unfold State.raise; split <;> rfl
@[simp] theorem raise_on (k : FaultCode) (w : CmdWord) (q : Option Pin) : (s.raise k w q).on = s.on := by
  unfold State.raise; split <;> rfl
@[simp] theorem raise_lp (k : FaultCode) (w : CmdWord) (q : Option Pin) : (s.raise k w q).lp = s.lp := by
  unfold State.raise; split <;> rfl
@[simp] theorem raise_cip (k : FaultCode) (w : CmdWord) (q : Option Pin) : (s.raise k w q).cip = s.cip := by
  unfold State.raise; split <;> rfl
@[simp] theorem raise_waitUntil (k : FaultCode) (w : CmdWord) (q : Option Pin) : (s.raise k w q).waitUntil = s.waitUntil := by
  unfold State.raise; split <;> rfl
@[simp] theorem raise_polled (k : FaultCode) (w : CmdWord) (q : Option Pin) : (s.raise k w q).polled = s.polled := by
  unfold State.raise; split <;> rfl
@[simp] theorem raise_rdLoop (k : FaultCode) (w : CmdWord) (q : Option Pin) : (s.raise k w q).rdLoop = s.rdLoop := by
  unfold State.raise; split <;> rfl
@[simp] theorem raise_rdEdge (k : FaultCode) (w : CmdWord) (q : Option Pin) : (s.raise k w q).rdEdge = s.rdEdge := by
  unfold State.raise; split <;> rfl
@[simp] theorem raise_ien (k : FaultCode) (w : CmdWord) (q : Option Pin) : (s.raise k w q).ien = s.ien := by
  unfold State.raise; split <;> rfl
@[simp] theorem raise_tickPending (k : FaultCode) (w : CmdWord) (q : Option Pin) : (s.raise k w q).tickPending = s.tickPending := by
  unfold State.raise; split <;> rfl
@[simp] theorem raise_edgePending (k : FaultCode) (w : CmdWord) (q : Option Pin) : (s.raise k w q).edgePending = s.edgePending := by
  unfold State.raise; split <;> rfl
@[simp] theorem raise_btnLast (k : FaultCode) (w : CmdWord) (q : Option Pin) : (s.raise k w q).btnLast = s.btnLast := by
  unfold State.raise; split <;> rfl
@[simp] theorem raise_now (k : FaultCode) (w : CmdWord) (q : Option Pin) : (s.raise k w q).now = s.now := by
  unfold State.raise; split <;> rfl
@[simp] theorem raise_nextTick (k : FaultCode) (w : CmdWord) (q : Option Pin) : (s.raise k w q).nextTick = s.nextTick := by
  unfold State.raise; split <;> rfl
@[simp] theorem raise_sched (k : FaultCode) (w : CmdWord) (q : Option Pin) : (s.raise k w q).sched = s.sched := by
  unfold State.raise; split <;> rfl
@[simp] theorem raise_picks (k : FaultCode) (w : CmdWord) (q : Option Pin) : (s.raise k w q).picks = s.picks := by
  unfold State.raise; split <;> rfl
@[simp] theorem raise_draws (k : FaultCode) (w : CmdWord) (q : Option Pin) : (s.raise k w q).draws = s.draws := by
  unfold State.raise; split <;> rfl

/-! `sample`: only the count of draws may change. -/

@[simp] theorem sample_cfg (q : Pin) : (s.sample q).2.cfg = s.cfg := by
  unfold State.sample; split <;> rfl
@[simp] theorem sample_dir (q : Pin) : (s.sample q).2.dir = s.dir := by
  unfold State.sample; split <;> rfl
@[simp] theorem sample_out (q : Pin) : (s.sample q).2.out = s.out := by
  unfold State.sample; split <;> rfl
@[simp] theorem sample_ext (q : Pin) : (s.sample q).2.ext = s.ext := by
  unfold State.sample; split <;> rfl
@[simp] theorem sample_chan (q : Pin) : (s.sample q).2.chan = s.chan := by
  unfold State.sample; split <;> rfl
@[simp] theorem sample_triLast (q : Pin) : (s.sample q).2.triLast = s.triLast := by
  unfold State.sample; split <;> rfl
@[simp] theorem sample_countdown (q : Pin) : (s.sample q).2.countdown = s.countdown := by
  unfold State.sample; split <;> rfl
@[simp] theorem sample_pressed (q : Pin) : (s.sample q).2.pressed = s.pressed := by
  unfold State.sample; split <;> rfl
@[simp] theorem sample_on (q : Pin) : (s.sample q).2.on = s.on := by
  unfold State.sample; split <;> rfl
@[simp] theorem sample_lp (q : Pin) : (s.sample q).2.lp = s.lp := by
  unfold State.sample; split <;> rfl
@[simp] theorem sample_cip (q : Pin) : (s.sample q).2.cip = s.cip := by
  unfold State.sample; split <;> rfl
@[simp] theorem sample_waitUntil (q : Pin) : (s.sample q).2.waitUntil = s.waitUntil := by
  unfold State.sample; split <;> rfl
@[simp] theorem sample_polled (q : Pin) : (s.sample q).2.polled = s.polled := by
  unfold State.sample; split <;> rfl
@[simp] theorem sample_rdLoop (q : Pin) : (s.sample q).2.rdLoop = s.rdLoop := by
  unfold State.sample; split <;> rfl
@[simp] theorem sample_rdEdge (q : Pin) : (s.sample q).2.rdEdge = s.rdEdge := by
  unfold State.sample; split <;> rfl
@[simp] theorem sample_ien (q : Pin) : (s.sample q).2.ien = s.ien := by
  unfold State.sample; split <;> rfl
@[simp] theorem sample_tickPending (q : Pin) : (s.sample q).2.tickPending = s.tickPending := by
  unfold State.sample; split <;> rfl
@[simp] theorem sample_edgePending (q : Pin) : (s.sample q).2.edgePending = s.edgePending := by
  unfold State.sample; split <;> rfl
@[simp] theorem sample_btnLast (q : Pin) : (s.sample q).2.btnLast = s.btnLast := by
  unfold State.sample; split <;> rfl
@[simp] theorem sample_now (q : Pin) : (s.sample q).2.now = s.now := by
  unfold State.sample; split <;> rfl
@[simp] theorem sample_nextTick (q : Pin) : (s.sample q).2.nextTick = s.nextTick := by
  unfold State.sample; split <;> rfl
@[simp] theorem sample_fault (q : Pin) : (s.sample q).2.fault = s.fault := by
  unfold State.sample; split <;> rfl
@[simp] theorem sample_faultWord (q : Pin) : (s.sample q).2.faultWord = s.faultWord := by
  unfold State.sample; split <;> rfl
@[simp] theorem sample_faultPin (q : Pin) : (s.sample q).2.faultPin = s.faultPin := by
  unfold State.sample; split <;> rfl
@[simp] theorem sample_sched (q : Pin) : (s.sample q).2.sched = s.sched := by
  unfold State.sample; split <;> rfl
@[simp] theorem sample_picks (q : Pin) : (s.sample q).2.picks = s.picks := by
  unfold State.sample; split <;> rfl

/-! `edgeDetect`: only `edgePending`, `btnLast` and the count of draws may change. -/

@[simp] theorem edgeDetect_cfg : s.edgeDetect.cfg = s.cfg := by
  simp only [State.edgeDetect]; (repeat' split) <;> simp
@[simp] theorem edgeDetect_dir : s.edgeDetect.dir = s.dir := by
  simp only [State.edgeDetect]; (repeat' split) <;> simp
@[simp] theorem edgeDetect_out : s.edgeDetect.out = s.out := by
  simp only [State.edgeDetect]; (repeat' split) <;> simp
@[simp] theorem edgeDetect_ext : s.edgeDetect.ext = s.ext := by
  simp only [State.edgeDetect]; (repeat' split) <;> simp
@[simp] theorem edgeDetect_chan : s.edgeDetect.chan = s.chan := by
  simp only [State.edgeDetect]; (repeat' split) <;> simp
@[simp] theorem edgeDetect_triLast : s.edgeDetect.triLast = s.triLast := by
  simp only [State.edgeDetect]; (repeat' split) <;> simp
@[simp] theorem edgeDetect_countdown : s.edgeDetect.countdown = s.countdown := by
  simp only [State.edgeDetect]; (repeat' split) <;> simp
@[simp] theorem edgeDetect_pressed : s.edgeDetect.pressed = s.pressed := by
  simp only [State.edgeDetect]; (repeat' split) <;> simp
@[simp] theorem edgeDetect_on : s.edgeDetect.on = s.on := by
  simp only [State.edgeDetect]; (repeat' split) <;> simp
@[simp] theorem edgeDetect_lp : s.edgeDetect.lp = s.lp := by
  simp only [State.edgeDetect]; (repeat' split) <;> simp
@[simp] theorem edgeDetect_cip : s.edgeDetect.cip = s.cip := by
  simp only [State.edgeDetect]; (repeat' split) <;> simp
@[simp] theorem edgeDetect_waitUntil : s.edgeDetect.waitUntil = s.waitUntil := by
  simp only [State.edgeDetect]; (repeat' split) <;> simp
@[simp] theorem edgeDetect_polled : s.edgeDetect.polled = s.polled := by
  simp only [State.edgeDetect]; (repeat' split) <;> simp
@[simp] theorem edgeDetect_rdLoop : s.edgeDetect.rdLoop = s.rdLoop := by
  simp only [State.edgeDetect]; (repeat' split) <;> simp
@[simp] theorem edgeDetect_rdEdge : s.edgeDetect.rdEdge = s.rdEdge := by
  simp only [State.edgeDetect]; (repeat' split) <;> simp
@[simp] theorem edgeDetect_ien : s.edgeDetect.ien = s.ien := by
  simp only [State.edgeDetect]; (repeat' split) <;> simp
@[simp] theorem edgeDetect_tickPending : s.edgeDetect.tickPending = s.tickPending := by
  simp only [State.edgeDetect]; (repeat' split) <;> simp
@[simp] theorem edgeDetect_now : s.edgeDetect.now = s.now := by
  simp only [State.edgeDetect]; (repeat' split) <;> simp
@[simp] theorem edgeDetect_nextTick : s.edgeDetect.nextTick = s.nextTick := by
  simp only [State.edgeDetect]; (repeat' split) <;> simp
@[simp] theorem edgeDetect_fault : s.edgeDetect.fault = s.fault := by
  simp only [State.edgeDetect]; (repeat' split) <;> simp
@[simp] theorem edgeDetect_faultWord : s.edgeDetect.faultWord = s.faultWord := by
  simp only [State.edgeDetect]; (repeat' split) <;> simp
@[simp] theorem edgeDetect_faultPin : s.edgeDetect.faultPin = s.faultPin := by
  simp only [State.edgeDetect]; (repeat' split) <;> simp
@[simp] theorem edgeDetect_sched : s.edgeDetect.sched = s.sched := by
  simp only [State.edgeDetect]; (repeat' split) <;> simp
@[simp] theorem edgeDetect_picks : s.edgeDetect.picks = s.picks := by
  simp only [State.edgeDetect]; (repeat' split) <;> simp

/-! `epilogue`: only the fault record, `edgePending`, `btnLast` and the count of draws may change. -/

@[simp] theorem epilogue_cfg : s.epilogue.cfg = s.cfg := by
  unfold State.epilogue; (repeat' split) <;> simp
@[simp] theorem epilogue_dir : s.epilogue.dir = s.dir := by
  unfold State.epilogue; (repeat' split) <;> simp
@[simp] theorem epilogue_out : s.epilogue.out = s.out := by
  unfold State.epilogue; (repeat' split) <;> simp
@[simp] theorem epilogue_ext : s.epilogue.ext = s.ext := by
  unfold State.epilogue; (repeat' split) <;> simp
@[simp] theorem epilogue_chan : s.epilogue.chan = s.chan := by
  unfold State.epilogue; (repeat' split) <;> simp
@[simp] theorem epilogue_triLast : s.epilogue.triLast = s.triLast := by
  unfold State.epilogue; (repeat' split) <;> simp
@[simp] theorem epilogue_countdown : s.epilogue.countdown = s.countdown := by
  unfold State.epilogue; (repeat' split) <;> simp
@[simp] theorem epilogue_pressed : s.epilogue.pressed = s.pressed := by
  unfold State.epilogue; (repeat' split) <;> simp
@[simp] theorem epilogue_on : s.epilogue.on = s.on := by
  unfold State.epilogue; (repeat' split) <;> simp
@[simp] theorem epilogue_lp : s.epilogue.lp = s.lp := by
  unfold State.epilogue; (repeat' split) <;> simp
@[simp] theorem epilogue_cip : s.epilogue.cip = s.cip := by
  unfold State.epilogue; (repeat' split) <;> simp
@[simp] theorem epilogue_waitUntil : s.epilogue.waitUntil = s.waitUntil := by
  unfold State.epilogue; (repeat' split) <;> simp
@[simp] theorem epilogue_polled : s.epilogue.polled = s.polled := by
  unfold State.epilogue; (repeat' split) <;> simp
@[simp] theorem epilogue_rdLoop : s.epilogue.rdLoop = s.rdLoop := by
  unfold State.epilogue; (repeat' split) <;> simp
@[simp] theorem epilogue_rdEdge : s.epilogue.rdEdge = s.rdEdge := by
  unfold State.epilogue; (repeat' split) <;> simp
@[simp] theorem epilogue_ien : s.epilogue.ien = s.ien := by
  unfold State.epilogue; (repeat' split) <;> simp
@[simp] theorem epilogue_tickPending : s.epilogue.tickPending = s.tickPending := by
  unfold State.epilogue; (repeat' split) <;> simp
@[simp] theorem epilogue_now : s.epilogue.now = s.now := by
  unfold State.epilogue; (repeat' split) <;> simp
@[simp] theorem epilogue_nextTick : s.epilogue.nextTick = s.nextTick := by
  unfold State.epilogue; (repeat' split) <;> simp
@[simp] theorem epilogue_sched : s.epilogue.sched = s.sched := by
  unfold State.epilogue; (repeat' split) <;> simp
@[simp] theorem epilogue_picks : s.epilogue.picks = s.picks := by
  unfold State.epilogue; (repeat' split) <;> simp

end Sys2Proof.Machine.State
end

