-- ==== Sys2Proof/Laws/Views.lean ====
section
/-! SUPPORT. Each view of the registers and tables is unchanged by an update of another element. -/

namespace Sys2Proof.Machine

variable (s : State)

@[simp] theorem dirOf_setOut (p : PortNo) (v : PortReg) (p' : PortNo) : (s.setOut p v).dirOf p' = s.dirOf p' := rfl
@[simp] theorem dirOf_setExt (pin : Pin) (e : Drive) (p' : PortNo) : (s.setExt pin e).dirOf p' = s.dirOf p' := rfl
@[simp] theorem dirOf_setChan (c : Chan) (b : Binding) (p' : PortNo) : (s.setChan c b).dirOf p' = s.dirOf p' := rfl
@[simp] theorem dirOf_setTri (c : Chan) (l : TriLast) (p' : PortNo) : (s.setTri c l).dirOf p' = s.dirOf p' := rfl
@[simp] theorem dirOf_setCip (v : Cip) (p' : PortNo) : (s.setCip v).dirOf p' = s.dirOf p' := rfl
@[simp] theorem dirOf_goto (ph : Phase) (p' : PortNo) : (s.goto ph).dirOf p' = s.dirOf p' := rfl

@[simp] theorem outOf_setDir (p : PortNo) (v : PortReg) (p' : PortNo) : (s.setDir p v).outOf p' = s.outOf p' := rfl
@[simp] theorem outOf_setExt (pin : Pin) (e : Drive) (p' : PortNo) : (s.setExt pin e).outOf p' = s.outOf p' := rfl
@[simp] theorem outOf_setChan (c : Chan) (b : Binding) (p' : PortNo) : (s.setChan c b).outOf p' = s.outOf p' := rfl
@[simp] theorem outOf_setTri (c : Chan) (l : TriLast) (p' : PortNo) : (s.setTri c l).outOf p' = s.outOf p' := rfl
@[simp] theorem outOf_setCip (v : Cip) (p' : PortNo) : (s.setCip v).outOf p' = s.outOf p' := rfl
@[simp] theorem outOf_goto (ph : Phase) (p' : PortNo) : (s.goto ph).outOf p' = s.outOf p' := rfl

@[simp] theorem extOf_setDir (p : PortNo) (v : PortReg) (r : Pin) : (s.setDir p v).extOf r = s.extOf r := rfl
@[simp] theorem extOf_setOut (p : PortNo) (v : PortReg) (r : Pin) : (s.setOut p v).extOf r = s.extOf r := rfl
@[simp] theorem extOf_setChan (c : Chan) (b : Binding) (r : Pin) : (s.setChan c b).extOf r = s.extOf r := rfl
@[simp] theorem extOf_setTri (c : Chan) (l : TriLast) (r : Pin) : (s.setTri c l).extOf r = s.extOf r := rfl
@[simp] theorem extOf_setCip (v : Cip) (r : Pin) : (s.setCip v).extOf r = s.extOf r := rfl
@[simp] theorem extOf_goto (ph : Phase) (r : Pin) : (s.goto ph).extOf r = s.extOf r := rfl

@[simp] theorem chanOf_setDir (p : PortNo) (v : PortReg) (d : Chan) : (s.setDir p v).chanOf d = s.chanOf d := rfl
@[simp] theorem chanOf_setOut (p : PortNo) (v : PortReg) (d : Chan) : (s.setOut p v).chanOf d = s.chanOf d := rfl
@[simp] theorem chanOf_setExt (pin : Pin) (e : Drive) (d : Chan) : (s.setExt pin e).chanOf d = s.chanOf d := rfl
@[simp] theorem chanOf_setTri (c : Chan) (l : TriLast) (d : Chan) : (s.setTri c l).chanOf d = s.chanOf d := rfl
@[simp] theorem chanOf_setCip (v : Cip) (d : Chan) : (s.setCip v).chanOf d = s.chanOf d := rfl
@[simp] theorem chanOf_goto (ph : Phase) (d : Chan) : (s.goto ph).chanOf d = s.chanOf d := rfl

@[simp] theorem triOf_setDir (p : PortNo) (v : PortReg) (d : Chan) : (s.setDir p v).triOf d = s.triOf d := rfl
@[simp] theorem triOf_setOut (p : PortNo) (v : PortReg) (d : Chan) : (s.setOut p v).triOf d = s.triOf d := rfl
@[simp] theorem triOf_setExt (pin : Pin) (e : Drive) (d : Chan) : (s.setExt pin e).triOf d = s.triOf d := rfl
@[simp] theorem triOf_setChan (c : Chan) (b : Binding) (d : Chan) : (s.setChan c b).triOf d = s.triOf d := rfl
@[simp] theorem triOf_setCip (v : Cip) (d : Chan) : (s.setCip v).triOf d = s.triOf d := rfl
@[simp] theorem triOf_goto (ph : Phase) (d : Chan) : (s.goto ph).triOf d = s.triOf d := rfl

@[simp] theorem chk_setDir (p : PortNo) (v : PortReg) (d : Chan) (k : Kind) : (s.setDir p v).chk d k = s.chk d k := rfl
@[simp] theorem chk_setOut (p : PortNo) (v : PortReg) (d : Chan) (k : Kind) : (s.setOut p v).chk d k = s.chk d k := rfl
@[simp] theorem chk_setExt (pin : Pin) (e : Drive) (d : Chan) (k : Kind) : (s.setExt pin e).chk d k = s.chk d k := rfl
@[simp] theorem chk_setTri (c : Chan) (l : TriLast) (d : Chan) (k : Kind) : (s.setTri c l).chk d k = s.chk d k := rfl
@[simp] theorem chk_setCip (v : Cip) (d : Chan) (k : Kind) : (s.setCip v).chk d k = s.chk d k := rfl
@[simp] theorem chk_goto (ph : Phase) (d : Chan) (k : Kind) : (s.goto ph).chk d k = s.chk d k := rfl

@[simp] theorem dirBit_setOut (p : PortNo) (v : PortReg) (r : Pin) : (s.setOut p v).dirBit r = s.dirBit r := rfl
@[simp] theorem dirBit_setExt (pin : Pin) (e : Drive) (r : Pin) : (s.setExt pin e).dirBit r = s.dirBit r := rfl
@[simp] theorem dirBit_setChan (c : Chan) (b : Binding) (r : Pin) : (s.setChan c b).dirBit r = s.dirBit r := rfl
@[simp] theorem dirBit_setTri (c : Chan) (l : TriLast) (r : Pin) : (s.setTri c l).dirBit r = s.dirBit r := rfl
@[simp] theorem dirBit_setCip (v : Cip) (r : Pin) : (s.setCip v).dirBit r = s.dirBit r := rfl
@[simp] theorem dirBit_goto (ph : Phase) (r : Pin) : (s.goto ph).dirBit r = s.dirBit r := rfl

@[simp] theorem outBit_setDir (p : PortNo) (v : PortReg) (r : Pin) : (s.setDir p v).outBit r = s.outBit r := rfl
@[simp] theorem outBit_setExt (pin : Pin) (e : Drive) (r : Pin) : (s.setExt pin e).outBit r = s.outBit r := rfl
@[simp] theorem outBit_setChan (c : Chan) (b : Binding) (r : Pin) : (s.setChan c b).outBit r = s.outBit r := rfl
@[simp] theorem outBit_setTri (c : Chan) (l : TriLast) (r : Pin) : (s.setTri c l).outBit r = s.outBit r := rfl
@[simp] theorem outBit_setCip (v : Cip) (r : Pin) : (s.setCip v).outBit r = s.outBit r := rfl
@[simp] theorem outBit_goto (ph : Phase) (r : Pin) : (s.goto ph).outBit r = s.outBit r := rfl

end Sys2Proof.Machine
end

