-- ==== Sys2Proof/Laws/Ops.lean ====
section
/-! SUPPORT. What each shared operation can do, said once: the accessors after the updates, the one-bit update (R102), the
line level (R120), a sample, raising a fault (R201) and the epilogue (R204). -/

namespace Sys2Proof.Machine

/-! One-bit updates. -/

/-- R102: bit `i` becomes `b`, every other bit is kept. -/
@[simp] theorem bitOf_setBit (t : PortReg) (i j : PinIdx) (b : Bool) :
    bitOf (setBit t i b) j = if j = i then b else bitOf t j := by
  unfold bitOf setBit bitAt
  revert i j
  cases b <;> intro i j <;> fin_cases i <;> fin_cases j <;> simp

/-- R104: setting a bit is `t | bit(1, i)`. -/
theorem setBit_true (t : PortReg) (i : PinIdx) : setBit t i true = t ||| (1#8 <<< i.val) := by
  ext j
  simp only [setBit, bitAt, BitVec.getElem_or, BitVec.getElem_and, BitVec.getElem_not, BitVec.ofBool_true,
    BitVec.truncate_eq_setWidth, BitVec.reduceSetWidth]
  cases (1#8 <<< i.val)[j] <;> simp

/-- R108: clearing a bit is `t & ~bit(1, i)`. -/
theorem setBit_false (t : PortReg) (i : PinIdx) : setBit t i false = t &&& ~~~(1#8 <<< i.val) := by
  simp [setBit, bitAt]

/-! Reading a register or table entry after an update. -/

theorem dirOf_setDir (s : State) (p q : PortNo) (v : PortReg) :
    (s.setDir p v).dirOf q = if q = p then v else s.dirOf q := by
  by_cases h : q = p
  · subst h; simp [State.setDir, State.dirOf]
  · have h' : p.val ≠ q.val := fun e => h (Fin.ext e.symm)
    simp [State.setDir, State.dirOf, h, h']

theorem outOf_setOut (s : State) (p q : PortNo) (v : PortReg) :
    (s.setOut p v).outOf q = if q = p then v else s.outOf q := by
  by_cases h : q = p
  · subst h; simp [State.setOut, State.outOf]
  · have h' : p.val ≠ q.val := fun e => h (Fin.ext e.symm)
    simp [State.setOut, State.outOf, h, h']

theorem chanOf_setChan (s : State) (c d : Chan) (b : Binding) :
    (s.setChan c b).chanOf d = if d = c then some b else s.chanOf d := by
  by_cases h : d = c
  · subst h; simp [State.setChan, State.chanOf]
  · have h' : c.val ≠ d.val := fun e => h (Fin.ext e.symm)
    simp [State.setChan, State.chanOf, h, h']

theorem triOf_setTri (s : State) (c d : Chan) (l : TriLast) :
    (s.setTri c l).triOf d = if d = c then l else s.triOf d := by
  by_cases h : d = c
  · subst h; simp [State.setTri, State.triOf]
  · have h' : c.val ≠ d.val := fun e => h (Fin.ext e.symm)
    simp [State.setTri, State.triOf, h, h']

theorem extOf_setExt (s : State) (q r : Pin) (e : Drive) :
    (s.setExt q e).extOf r = if r = q then e else s.extOf r := by
  obtain ⟨qp, qi⟩ := q
  obtain ⟨rp, ri⟩ := r
  by_cases hp : rp = qp
  · subst hp
    by_cases hi : ri = qi
    · subst hi; simp [State.setExt, State.extOf]
    · have h' : qi.val ≠ ri.val := fun h => hi (Fin.ext h.symm)
      simp [State.setExt, State.extOf, hi, h']
  · have h' : qp.val ≠ rp.val := fun h => hp (Fin.ext h.symm)
    simp [State.setExt, State.extOf, hp, h']

/-- The views of the state depend on their own fields alone. -/
theorem dirOf_congr {s t : State} (h : t.dir = s.dir) (p : PortNo) : t.dirOf p = s.dirOf p := by
  simp [State.dirOf, h]

theorem outOf_congr {s t : State} (h : t.out = s.out) (p : PortNo) : t.outOf p = s.outOf p := by
  simp [State.outOf, h]

theorem chanOf_congr {s t : State} (h : t.chan = s.chan) (c : Chan) : t.chanOf c = s.chanOf c := by
  simp [State.chanOf, h]

theorem triOf_congr {s t : State} (h : t.triLast = s.triLast) (c : Chan) : t.triOf c = s.triOf c := by
  simp [State.triOf, h]

theorem extOf_congr {s t : State} (h : t.ext = s.ext) (q : Pin) : t.extOf q = s.extOf q := by
  simp [State.extOf, h]

theorem dirBit_congr {s t : State} (h : t.dir = s.dir) (q : Pin) : t.dirBit q = s.dirBit q := by
  simp [State.dirBit, dirOf_congr h]

theorem outBit_congr {s t : State} (h : t.out = s.out) (q : Pin) : t.outBit q = s.outBit q := by
  simp [State.outBit, outOf_congr h]

theorem lineLevel_congr {s t : State} (hd : t.dir = s.dir) (ho : t.out = s.out) (he : t.ext = s.ext) (q : Pin) :
    t.lineLevel q = s.lineLevel q := by
  simp [State.lineLevel, dirBit_congr hd, outBit_congr ho, extOf_congr he]

theorem chk_congr {s t : State} (h : t.chan = s.chan) (c : Chan) (k : Kind) : t.chk c k = s.chk c k := by
  simp [State.chk, chanOf_congr h]

/-- The direction bits after one bit of the current register value is changed (R67, R102). -/
theorem dirBit_setDir_setBit (s : State) (q r : Pin) (b : Bool) :
    (s.setDir q.port (setBit (s.dirOf q.port) q.idx b)).dirBit r = if r = q then b else s.dirBit r := by
  obtain ⟨qp, qi⟩ := q
  obtain ⟨rp, ri⟩ := r
  by_cases hp : rp = qp <;> by_cases hi : ri = qi <;> simp [State.dirBit, dirOf_setDir, hp, hi]

/-- The output bits after one bit of the current register value is changed (R67, R102). -/
theorem outBit_setOut_setBit (s : State) (q r : Pin) (b : Bool) :
    (s.setOut q.port (setBit (s.outOf q.port) q.idx b)).outBit r = if r = q then b else s.outBit r := by
  obtain ⟨qp, qi⟩ := q
  obtain ⟨rp, ri⟩ := r
  by_cases hp : rp = qp <;> by_cases hi : ri = qi <;> simp [State.outBit, outOf_setOut, hp, hi]

/-! The checks. -/

/-- R101: what the channel check answers. -/
theorem chk_ok_iff (s : State) (c : Chan) (k : Kind) (b : Binding) :
    s.chk c k = .ok b ↔ s.chanOf c = some b ∧ b.kind = k := by
  unfold State.chk
  cases h : s.chanOf c with
  | none => simp
  | some b' =>
    by_cases hk : b'.kind = k
    · simp only [hk, if_true, Except.ok.injEq, Option.some.injEq]
      constructor
      · rintro rfl; exact ⟨rfl, hk⟩
      · exact fun e => e.1
    · simp only [hk, if_false, Option.some.injEq, reduceCtorEq, false_iff]
      rintro ⟨rfl, e⟩; exact hk e

theorem chk_error_iff (s : State) (c : Chan) (k : Kind) (f : CmdFault) :
    s.chk c k = .error f ↔
      s.chanOf c = none ∧ f = ⟨.unboundChannel, none⟩ ∨
        ∃ b, s.chanOf c = some b ∧ b.kind ≠ k ∧ f = ⟨.wrongKind, some b.pin⟩ := by
  unfold State.chk
  cases h : s.chanOf c with
  | none => simp [eq_comm]
  | some b => by_cases hk : b.kind = k <;> simp [hk, eq_comm (a := f)]

/-- R103: some other channel holds the pin. -/
theorem pinOwned_iff (s : State) (c : Chan) (q : Pin) :
    s.pinOwned c q = true ↔ ∃ c', c' ≠ c ∧ ∃ b, s.chanOf c' = some b ∧ b.pin = q := by
  unfold State.pinOwned
  simp only [List.any_eq_true, List.mem_finRange, true_and, Bool.and_eq_true, decide_eq_true_eq]
  refine exists_congr fun c' => and_congr_right fun _ => ?_
  cases h : s.chanOf c' <;> simp

/-- R103: the bind check passes. -/
theorem bindchk_none_iff (s : State) (c : Chan) (q : Pin) :
    s.bindchk c q = none ↔
      s.chanOf c = none ∧ s.cfg.pinExists q = true ∧ ∀ c', c' ≠ c → ∀ b, s.chanOf c' = some b → b.pin ≠ q := by
  have h3 : (s.pinOwned c q = true) ↔ _ := pinOwned_iff s c q
  unfold State.bindchk
  by_cases h1 : s.chanOf c = none
  · by_cases h2 : s.cfg.pinExists q = true
    · by_cases h : s.pinOwned c q = true
      · obtain ⟨c', hc, b, hb, hq⟩ := h3.1 h
        simp only [h1, h2, h, ne_eq, not_true_eq_false, Bool.true_eq_false, if_false, if_true, reduceCtorEq, true_and,
          false_iff]
        exact fun k => k c' hc b hb hq
      · simp only [h1, h2, h, ne_eq, not_true_eq_false, Bool.true_eq_false, Bool.false_eq_true, if_false, true_and,
          true_iff]
        exact fun c' hc b hb hq => h (h3.2 ⟨c', hc, b, hb, hq⟩)
    · simp [h1, h2]
  · simp [h1]

/-! Fault record, samples and epilogue. -/

/-- R201: the first fault is recorded. -/
theorem raise_of_no_fault {s : State} (h : s.fault = .none) (k : FaultCode) (w : CmdWord) (q : Option Pin) :
    s.raise k w q = { s with fault := k, faultWord := w, faultPin := q } := by
  simp [State.raise, h]

/-- R45: a fault is never overwritten. -/
theorem raise_of_fault {s : State} (h : s.fault ≠ .none) (k : FaultCode) (w : CmdWord) (q : Option Pin) :
    s.raise k w q = s := by
  simp [State.raise, h]

/-- R120: where the level is determined, sampling it gives it and changes nothing. -/
theorem sample_of_level {s : State} {q : Pin} {v : Bool} (h : s.lineLevel q = some v) : s.sample q = (v, s) := by
  simp [State.sample, h]

/-- R12: where it is not, sampling gives the next free bit and counts it. -/
theorem sample_of_draw {s : State} {q : Pin} (h : s.lineLevel q = none) :
    s.sample q = (Config.freeBit s.draws, { s with draws := s.draws + 1 }) := by
  simp [State.sample, h]

/-- Every pin is in the list the contention check searches. -/
theorem mem_allPins (q : Pin) : q ∈ allPins := by
  simp only [allPins, List.mem_flatMap, List.mem_map, List.mem_finRange, true_and]
  exact ⟨q.port, q.idx, rfl⟩

/-- R121: no existing pin contends exactly when the check finds none. -/
theorem contendedPin_eq_none_iff (s : State) :
    s.contendedPin = none ↔ ∀ q, s.cfg.pinExists q = true → s.contends q = false := by
  simp only [State.contendedPin, List.find?_eq_none, Bool.and_eq_true, not_and, Bool.not_eq_true]
  exact ⟨fun h q => h q (mem_allPins q), fun h q _ => h q⟩

/-- What the epilogue is (R204): nothing after a command fault, `F_CONTENTION`, or the edge detector. -/
theorem epilogue_cases (s : State) :
    (s.fault ≠ .none ∧ s.epilogue = s) ∨
    (s.fault = .none ∧ ∃ q, s.contendedPin = some q ∧
      s.epilogue = { s with fault := .contention, faultWord := 0x0000, faultPin := some q }) ∨
    (s.fault = .none ∧ s.contendedPin = none ∧ s.epilogue = s.edgeDetect) := by
  by_cases h : s.fault = .none
  · cases hc : s.contendedPin with
    | none => right; right; simp [State.epilogue, h, hc]
    | some q => right; left; exact ⟨h, q, rfl, by simp [State.epilogue, h, hc, raise_of_no_fault h]⟩
  · left; exact ⟨h, by simp [State.epilogue, h]⟩

end Sys2Proof.Machine
end

