-- ==== Sys2Proof/Laws/Exec.lean ====
section
/-! SUPPORT. One inversion lemma per meaning: if it answers a next state, then one of the listed cases holds. And the
micro-step a command word is at (R35, R100). -/

namespace Sys2Proof.Machine

/-- R201: a step that answers a next state began without a fault. -/
theorem running_next {s t : State} {o : Result} : running s o = .next t ↔ s.fault = .none ∧ o = .next t := by
  unfold running
  by_cases h : s.fault = .none <;> simp [h]

/-- While there is no fault, `running` is the step itself. -/
@[simp] theorem running_of_no_fault {s : State} (h : s.fault = .none) (o : Result) : running s o = o := by
  simp [running, h]

/-- R201: after a fault no agent has a step. -/
theorem running_of_fault {s : State} (h : s.fault ≠ .none) (o : Result) : running s o = .fault .halted := by
  simp [running, h]

/-- R35: a command not begun is at micro-step 0; a command in progress at its own step, with the value it has read. -/
theorem microStep_eq_some {s : State} {w : CmdWord} {k : Nat} {r : PortReg} :
    s.microStep w = some (k, r) ↔ s.cip = .idle ∧ k = 0 ∧ r = 0 ∨ s.cip = .busy w k r := by
  unfold State.microStep
  cases h : s.cip with
  | idle =>
    simp only [Option.some.injEq, Prod.mk.injEq, true_and, reduceCtorEq, or_false]
    exact and_congr eq_comm eq_comm
  | busy w' k' t' =>
    by_cases hw : w' = w
    · simp [hw]
    · simp [hw]

@[simp] theorem microStep_of_idle {s : State} (h : s.cip = .idle) (w : CmdWord) : s.microStep w = some (0, 0) := by
  simp [State.microStep, h]

@[simp] theorem microStep_of_busy {s : State} {w : CmdWord} {k : Nat} {r : PortReg} (h : s.cip = .busy w k r) :
    s.microStep w = some (k, r) := by
  simp [State.microStep, h]

theorem execBindOut_next {c : Chan} {q : Pin} {al : Bool} {s t : State} (h : execBindOut c q al s = .next t) :
    s.fault = .none ∧
      ((∃ r code, s.microStep (Instr.bindOut c q al).word = some (0, r) ∧ s.bindchk c q = some code ∧
          t = s.raise code (Instr.bindOut c q al).word (some q)) ∨
       (∃ r, s.microStep (Instr.bindOut c q al).word = some (0, r) ∧ s.bindchk c q = none ∧
          t = s.bindStart (Instr.bindOut c q al).word c ⟨.out, q, al, false⟩) ∨
       (∃ r, s.microStep (Instr.bindOut c q al).word = some (1, r) ∧
          t = (s.setDir q.port (setBit r q.idx true)).setCip .idle)) := by
  obtain ⟨hf, h⟩ := running_next.1 h
  refine ⟨hf, ?_⟩
  dsimp only at h
  split at h
  · rename_i r hm
    split at h
    · rename_i code hb; cases h; exact .inl ⟨r, code, hm, hb, rfl⟩
    · rename_i hb; cases h; exact .inr (.inl ⟨r, hm, hb, rfl⟩)
  · rename_i r hm; cases h; exact .inr (.inr ⟨r, hm, rfl⟩)
  · cases h

theorem execBindTri_next {c : Chan} {q : Pin} {al : Bool} {s t : State} (h : execBindTri c q al s = .next t) :
    s.fault = .none ∧
      ((∃ r code, s.microStep (Instr.bindTri c q al).word = some (0, r) ∧ s.bindchk c q = some code ∧
          t = s.raise code (Instr.bindTri c q al).word (some q)) ∨
       (∃ r, s.microStep (Instr.bindTri c q al).word = some (0, r) ∧ s.bindchk c q = none ∧
          t = (s.bindStart (Instr.bindTri c q al).word c ⟨.tri, q, al, false⟩).setTri c .none) ∨
       (∃ r, s.microStep (Instr.bindTri c q al).word = some (1, r) ∧
          t = (s.setDir q.port (setBit r q.idx true)).setCip .idle)) := by
  obtain ⟨hf, h⟩ := running_next.1 h
  refine ⟨hf, ?_⟩
  dsimp only at h
  split at h
  · rename_i r hm
    split at h
    · rename_i code hb; cases h; exact .inl ⟨r, code, hm, hb, rfl⟩
    · rename_i hb; cases h; exact .inr (.inl ⟨r, hm, hb, rfl⟩)
  · rename_i r hm; cases h; exact .inr (.inr ⟨r, hm, rfl⟩)
  · cases h

theorem execBindIn_next {c : Chan} {q : Pin} {al pu : Bool} {s t : State} (h : execBindIn c q al pu s = .next t) :
    s.fault = .none ∧
      ((∃ r code, s.microStep (Instr.bindIn c q al pu).word = some (0, r) ∧ s.bindchk c q = some code ∧
          t = s.raise code (Instr.bindIn c q al pu).word (some q)) ∨
       (∃ r, s.microStep (Instr.bindIn c q al pu).word = some (0, r) ∧ s.bindchk c q = none ∧
          t = s.bindStart (Instr.bindIn c q al pu).word c ⟨.inp, q, al, pu⟩) ∨
       (∃ r, s.microStep (Instr.bindIn c q al pu).word = some (1, r) ∧
          t = (s.setDir q.port (setBit r q.idx false)).setCip
            (if pu then .busy (Instr.bindIn c q al pu).word 2 r else .idle)) ∨
       (∃ r, pu = true ∧ s.microStep (Instr.bindIn c q al pu).word = some (2, r) ∧
          t = s.setCip (.busy (Instr.bindIn c q al pu).word 3 (s.outOf q.port))) ∨
       (∃ r, pu = true ∧ s.microStep (Instr.bindIn c q al pu).word = some (3, r) ∧
          t = (s.setOut q.port (setBit r q.idx true)).setCip .idle)) := by
  obtain ⟨hf, h⟩ := running_next.1 h
  refine ⟨hf, ?_⟩
  dsimp only at h
  split at h
  · rename_i r hm
    split at h
    · rename_i code hb; cases h; exact .inl ⟨r, code, hm, hb, rfl⟩
    · rename_i hb; cases h; exact .inr (.inl ⟨r, hm, hb, rfl⟩)
  · rename_i r hm; cases h; exact .inr (.inr (.inl ⟨r, hm, rfl⟩))
  · rename_i r hm
    split at h
    · rename_i hp; cases h; exact .inr (.inr (.inr (.inl ⟨r, hp, hm, rfl⟩)))
    · cases h
  · rename_i r hm
    split at h
    · rename_i hp; cases h; exact .inr (.inr (.inr (.inr ⟨r, hp, hm, rfl⟩)))
    · cases h
  · cases h

theorem execWrite_next {c : Chan} {level : Bool} {s t : State} (h : execWrite c level s = .next t) :
    s.fault = .none ∧
      ((∃ r f, s.microStep (Instr.write c level).word = some (0, r) ∧ s.chk c .out = .error f ∧
          t = s.raise f.code (Instr.write c level).word f.pin) ∨
       (∃ r b, s.microStep (Instr.write c level).word = some (0, r) ∧ s.chk c .out = .ok b ∧
          t = s.setCip (.busy (Instr.write c level).word 1 (s.outOf b.pin.port))) ∨
       (∃ r b, s.microStep (Instr.write c level).word = some (1, r) ∧ s.chk c .out = .ok b ∧
          t = (s.setOut b.pin.port (setBit r b.pin.idx (activeLow level b.al))).setCip .idle)) := by
  obtain ⟨hf, h⟩ := running_next.1 h
  refine ⟨hf, ?_⟩
  dsimp only at h
  split at h
  · rename_i r f hm hc; cases h; exact .inl ⟨r, f, hm, hc, rfl⟩
  · rename_i r b hm hc; cases h; exact .inr (.inl ⟨r, b, hm, hc, rfl⟩)
  · rename_i r b hm hc; cases h; exact .inr (.inr ⟨r, b, hm, hc, rfl⟩)
  · cases h

theorem execTriWrite_next {c : Chan} {lvl : DriveLevel} {s t : State} (h : execTriWrite c lvl s = .next t) :
    s.fault = .none ∧
      ((∃ r f, s.microStep (Instr.triWrite c lvl).word = some (0, r) ∧ s.chk c .tri = .error f ∧
          t = s.raise f.code (Instr.triWrite c lvl).word f.pin) ∨
       (∃ r b, s.microStep (Instr.triWrite c lvl).word = some (0, r) ∧ s.chk c .tri = .ok b ∧
          t = s.setCip (.busy (Instr.triWrite c lvl).word 1 (s.dirOf b.pin.port))) ∨
       (∃ r b, s.microStep (Instr.triWrite c lvl).word = some (1, r) ∧ s.chk c .tri = .ok b ∧
          t = ((s.setDir b.pin.port (setBit r b.pin.idx (levelDrives lvl))).setTri c (TriLast.ofLevel lvl)).setCip
            (.busy (Instr.triWrite c lvl).word 2 r)) ∨
       (∃ r b, s.microStep (Instr.triWrite c lvl).word = some (2, r) ∧ s.chk c .tri = .ok b ∧
          t = s.setCip (.busy (Instr.triWrite c lvl).word 3 (s.outOf b.pin.port))) ∨
       (∃ r b, s.microStep (Instr.triWrite c lvl).word = some (3, r) ∧ s.chk c .tri = .ok b ∧
          t = (s.setOut b.pin.port (setBit r b.pin.idx (activeLow (levelWritten lvl) b.al))).setCip .idle)) := by
  obtain ⟨hf, h⟩ := running_next.1 h
  refine ⟨hf, ?_⟩
  dsimp only at h
  split at h
  · rename_i r f hm hc; cases h; exact .inl ⟨r, f, hm, hc, rfl⟩
  · rename_i r b hm hc; cases h; exact .inr (.inl ⟨r, b, hm, hc, rfl⟩)
  · rename_i r b hm hc; cases h; exact .inr (.inr (.inl ⟨r, b, hm, hc, rfl⟩))
  · rename_i r b hm hc; cases h; exact .inr (.inr (.inr (.inl ⟨r, b, hm, hc, rfl⟩)))
  · rename_i r b hm hc; cases h; exact .inr (.inr (.inr (.inr ⟨r, b, hm, hc, rfl⟩)))
  · cases h

/-- What reading a channel answers (R118). -/
theorem readChannel_ok_iff (s : State) (c : Chan) (v : Bool × State) :
    s.readChannel c = .ok v ↔
      ∃ b, s.chanOf c = some b ∧ b.kind = .inp ∧
        v = (activeLow (s.sample b.pin).1 b.al, (s.sample b.pin).2) := by
  unfold State.readChannel
  cases h : s.chk c .inp with
  | error f =>
    simp only [reduceCtorEq, false_iff]
    rintro ⟨b, hb, hk, -⟩
    have := (chk_ok_iff s c .inp b).2 ⟨hb, hk⟩
    rw [h] at this; cases this
  | ok b =>
    obtain ⟨hb, hk⟩ := (chk_ok_iff s c .inp b).1 h
    simp only [Except.ok.injEq]
    constructor
    · rintro rfl; exact ⟨b, hb, hk, rfl⟩
    · rintro ⟨b', hb', -, rfl⟩
      rw [hb] at hb'; cases hb'; rfl

theorem execRead_next {c : Chan} {s t : State} (h : execRead c s = .next t) :
    s.fault = .none ∧
      ((∃ r f, s.microStep (Instr.read c).word = some (0, r) ∧ s.readChannel c = .error f ∧
          t = s.raise f.code (Instr.read c).word f.pin) ∨
       (∃ r v, s.microStep (Instr.read c).word = some (0, r) ∧ s.readChannel c = .ok v ∧
          t = { v.2 with rdLoop := v.1, cip := .idle })) := by
  obtain ⟨hf, h⟩ := running_next.1 h
  refine ⟨hf, ?_⟩
  dsimp only at h
  split at h
  · rename_i r f hm hc; cases h; exact .inl ⟨r, f, hm, hc, rfl⟩
  · rename_i r v hm hc; cases h; exact .inr ⟨r, v, hm, hc, rfl⟩
  · cases h

theorem execTick_next {s t : State} (h : execTick s = .next t) :
    s.fault = .none ∧ s.tickPending = true ∧
      t = { s with tickPending := false, countdown := decrement s.countdown } := by
  obtain ⟨hf, h⟩ := running_next.1 h
  split at h
  · rename_i hp; cases h; exact ⟨hf, hp, rfl⟩
  · cases h

theorem execEdge_next {s t : State} (h : execEdge s = .next t) :
    s.fault = .none ∧ 0 < s.edgePending ∧
      ((∃ f, s.readChannel buttonChan = .error f ∧ t = s.raise f.code (Instr.read buttonChan).word f.pin) ∨
       (∃ v, s.readChannel buttonChan = .ok v ∧
          t = State.latchPress { v.2 with edgePending := v.2.edgePending - 1, rdEdge := v.1 } v.1)) := by
  obtain ⟨hf, h⟩ := running_next.1 h
  split at h
  · cases h
  · rename_i hp
    refine ⟨hf, Nat.pos_of_ne_zero hp, ?_⟩
    split at h
    · rename_i f hc; cases h; exact .inl ⟨f, hc, rfl⟩
    · rename_i v hc; cases h; exact .inr ⟨v, hc, rfl⟩

end Sys2Proof.Machine
end

