-- ==== Sys2Proof/Laws/PerInstr.lean ====
section
/-! SUPPORT. The per-instruction family `TableRow`: the code of every instruction matches its own row of spec/opcode_table.json under
the row's mask (R90, R91). -/

namespace Sys2Proof.Laws.TableRow

/-- The code matches a row: a command word under the row's mask, an event code as it stands (R90, R91). -/
def matchesRow (bits mask : CmdWord) (code : BitVec 1) : Code → Prop
  | .cmd w => w &&& mask = bits
  | .event c => c = code

/-- The row of the instruction's mnemonic in spec/opcode_table.json is matched by its code. -/
def Statement : Instr → Prop
  | .bindOut c q al => matchesRow 0x0000 0xE003 0 (encode (.bindOut c q al))
  | .bindTri c q al => matchesRow 0x2000 0xE003 0 (encode (.bindTri c q al))
  | .bindIn c q al pu => matchesRow 0x4000 0xE002 0 (encode (.bindIn c q al pu))
  | .write c level => matchesRow 0x6000 0xE3FE 0 (encode (.write c level))
  | .triWrite c lvl => matchesRow 0x8000 0xE3FC 0 (encode (.triWrite c lvl))
  | .read c => matchesRow 0xA000 0xE3FF 0 (encode (.read c))
  | .tick => matchesRow 0 0 0 (encode .tick)
  | .edge => matchesRow 0 0 1 (encode .edge)

theorem bindOut (c : Chan) (q : Pin) (al : Bool) : Statement (.bindOut c q al) := by
  refine BitVec.eq_of_getLsbD_eq fun j hj => ?_
  rw [BitVec.getLsbD_and, getLsbD_assemble]
  interval_cases j <;> simp

theorem bindTri (c : Chan) (q : Pin) (al : Bool) : Statement (.bindTri c q al) := by
  refine BitVec.eq_of_getLsbD_eq fun j hj => ?_
  rw [BitVec.getLsbD_and, getLsbD_assemble]
  interval_cases j <;> simp

theorem bindIn (c : Chan) (q : Pin) (al pu : Bool) : Statement (.bindIn c q al pu) := by
  refine BitVec.eq_of_getLsbD_eq fun j hj => ?_
  rw [BitVec.getLsbD_and, getLsbD_assemble]
  cases pu <;> interval_cases j <;> simp

theorem write (c : Chan) (level : Bool) : Statement (.write c level) := by
  refine BitVec.eq_of_getLsbD_eq fun j hj => ?_
  rw [BitVec.getLsbD_and, getLsbD_assemble]
  cases level <;> interval_cases j <;> simp

theorem triWrite (c : Chan) (lvl : DriveLevel) : Statement (.triWrite c lvl) := by
  refine BitVec.eq_of_getLsbD_eq fun j hj => ?_
  rw [BitVec.getLsbD_and, getLsbD_assemble]
  interval_cases j <;> simp

theorem read (c : Chan) : Statement (.read c) := by
  refine BitVec.eq_of_getLsbD_eq fun j hj => ?_
  rw [BitVec.getLsbD_and, getLsbD_assemble]
  interval_cases j <;> simp

theorem tick : Statement .tick := rfl

theorem edge : Statement .edge := rfl

end Sys2Proof.Laws.TableRow
end

