-- ==== Sys2Proof/Laws/Safety.lean ====
section
/-! SUPPORT. What the safety predicates say: a level shown by an output (R50), and what it depends on. -/

namespace Sys2Proof.Machine

/-- R50: an output shows a level exactly when its pin is driven and the bit, translated, is that level. -/
theorem shows_iff_of_out {s : State} {c : Chan} {b : Binding} (hb : s.chanOf c = some b) (hk : b.kind = .out) (v : Bool) :
    s.shows c v ↔ s.dirBit b.pin = true ∧ activeLow (s.outBit b.pin) b.al = v := by
  unfold State.shows State.logicalLevel
  rw [hb]
  cases hd : s.dirBit b.pin <;> simp [hk, hd]

/-- A channel that shows a level is bound and its pin is driven. -/
theorem bound_of_shows {s : State} {c : Chan} {v : Bool} (h : s.shows c v) :
    ∃ b, s.chanOf c = some b ∧ s.dirBit b.pin = true := by
  unfold State.shows State.logicalLevel at h
  cases hb : s.chanOf c with
  | none => simp [hb] at h
  | some b => cases hk : b.kind <;> cases hd : s.dirBit b.pin <;> simp [hb, hk, hd] at h ⊢

/-- A level shown depends on `DIR`, `OUT` and the channel table alone. -/
theorem shows_congr {s t : State} (hd : t.dir = s.dir) (ho : t.out = s.out) (hc : t.chan = s.chan) (c : Chan) (v : Bool) :
    t.shows c v ↔ s.shows c v := by
  unfold State.shows State.logicalLevel
  simp only [chanOf_congr hc, dirBit_congr hd, outBit_congr ho]

end Sys2Proof.Machine
end

