-- ==== Sys2Proof/Laws/Step.lean ====
section
/-! SUPPORT. What a step of LOOP and a step of the block can do: the inversion lemmas from which the invariants follow. -/

namespace Sys2Proof.Machine

/-- The wanted move uses up the schedule or the count of free choices, and nothing else. -/
theorem wanted_snd (s : State) :
    s.wanted.2 = { s with sched := s.wanted.2.sched, picks := s.wanted.2.picks } := by
  unfold State.wanted
  split <;> rfl

/-- Whether a move has a step does not depend on the schedule or the count of free choices. -/
theorem enabled_wanted (s : State) (m : Move) : s.wanted.2.enabled m = s.enabled m := by
  rw [wanted_snd]; rfl

/-- The move that runs has a step. -/
theorem enabled_of_chosen {s : State} {want m : Move} (h : s.chosen want = some m) : s.enabled m = true := by
  unfold State.chosen at h
  split at h
  · rename_i he; cases h; exact he
  · exact List.find?_some h

/-- The wanted move runs if it has a step. -/
theorem chosen_of_enabled {s : State} {want : Move} (h : s.enabled want = true) : s.chosen want = some want := by
  simp [State.chosen, h]

/-- What a step is (R69, R204): the configuration is valid, there was no fault, and some move that has a step has run and the epilogue
after it. -/
theorem step_next {s t : State} (h : step s = .next t) :
    s.cfg.valid = true ∧ s.fault = .none ∧
      ∃ m u, s.taken = some m ∧ s.wanted.2.enabled m = true ∧ s.wanted.2.act m = .next u ∧ t = u.epilogue := by
  unfold step State.blockStep at h
  split at h
  · rename_i hv
    obtain ⟨hf, h⟩ := running_next.1 h
    refine ⟨hv, hf, ?_⟩
    unfold State.moveStep at h
    split at h
    · rename_i m hm
      refine ⟨m, ?_⟩
      cases ha : s.wanted.2.act m with
      | next u =>
        rw [ha] at h; cases h
        exact ⟨u, hm, enabled_of_chosen hm, rfl, rfl⟩
      | fault r => rw [ha] at h; cases h
      | refused r => rw [ha] at h; cases h
    · cases h
  · cases h

/-- A step whose chosen move answers a next state answers it with its epilogue. -/
theorem step_of_taken {s u : State} {m : Move} (hv : s.cfg.valid = true) (hf : s.fault = .none) (hm : s.taken = some m)
    (ha : s.wanted.2.act m = .next u) : step s = .next u.epilogue := by
  unfold State.taken at hm
  simp [step, State.blockStep, hv, hf, State.moveStep, hm, ha, withEpilogue]

/-- After a command's micro-step only `lp` may change, to the next phase when the command is complete. -/
theorem afterMicroStep_eq (s : State) :
    s.afterMicroStep = s ∨
      s.fault = .none ∧ s.cip = .idle ∧ s.afterMicroStep = s.goto (nextPhase s.cfg s.lp) := by
  unfold State.afterMicroStep
  by_cases hf : s.fault = .none
  · cases hc : s.cip <;> simp [hf]
  · simp [hf]

/-- What a step of LOOP is (R160): a word that is no command raises its fault, a command's micro-step runs, or the phase's own
step. -/
theorem loopStep_next {s t : State} (h : s.loopStep = .next t) :
    s.loopEnabled = true ∧
      ((∃ w f, phaseWord s.cfg s.lp = some w ∧ decodeWord w = .error f ∧ t = s.raise (.ofDecode f) w none) ∨
       (∃ w i u, phaseWord s.cfg s.lp = some w ∧ decodeWord w = .ok i ∧ exec i s = .next u ∧ t = u.afterMicroStep) ∨
       (phaseWord s.cfg s.lp = none ∧ s.phaseStep = .next t)) := by
  unfold State.loopStep at h
  split at h
  · rename_i he
    refine ⟨he, ?_⟩
    split at h
    · rename_i w hw
      unfold State.issueStep at h
      split at h
      · rename_i f hd; cases h; exact .inl ⟨w, f, hw, hd, rfl⟩
      · rename_i i hd
        split at h
        · rename_i u hu; cases h; exact .inr (.inl ⟨w, i, u, hw, hd, hu, rfl⟩)
        · cases h
        · cases h
    · rename_i hw; exact .inr (.inr ⟨hw, h⟩)
  · cases h

/-- LOOP has a step only without a fault (R160). -/
theorem fault_of_loopEnabled {s : State} (h : s.loopEnabled = true) : s.fault = .none := by
  unfold State.loopEnabled at h
  simpa using (Bool.and_eq_true_iff.1 h).1

end Sys2Proof.Machine
end

