-- ==== Sys2Proof/Tests/Slice0.lean ====
section
/-! SUPPORT. The model's own tests. Expected values come from the spec: the encodings of 30_encoding.md, the examples of the rules, and
95_test_vectors.md (the vector is named). The theorems named `test_hyp_…` show states that meet the hypotheses of the obligations. -/

namespace Sys2Proof.Machine

/-! Helpers. -/

/-- The answer is a next state of which `p` holds. -/
def answers (o : Result) (p : State → Bool) : Bool :=
  match o with
  | .next t => p t
  | .fault _ => false
  | .refused _ => false

/-- Some next state is answered. -/
theorem exists_next {o : Result} {p : State → Bool} (h : answers o p = true) : ∃ t, o = .next t ∧ p t = true := by
  cases o with
  | next t => exact ⟨t, rfl, h⟩
  | fault r => cases h
  | refused r => cases h

/-- A check of `bindchk` is the three hypotheses of a BIND that completes. -/
theorem bind_hyps {s : State} {c : Chan} {q : Pin} (h : s.bindchk c q = none) :
    s.chanOf c = none ∧ q.port.val < s.cfg.numPorts ∧ ∀ c', c' ≠ c → ∀ b, s.chanOf c' = some b → b.pin ≠ q := by
  obtain ⟨h1, h2, h3⟩ := (bindchk_none_iff s c q).1 h
  exact ⟨h1, of_decide_eq_true h2, h3⟩

/-- The contention check finds nothing, so no pin is opposed. -/
theorem not_opposed {s : State} (h : s.contendedPin = none) : ∀ q, ¬ s.opposed q := by
  rintro q ⟨hp, hd, h2⟩
  have := (contendedPin_eq_none_iff s).1 h q (decide_eq_true hp)
  rcases h2 with ⟨he, ho⟩ | ⟨he, ho⟩ <;> simp [State.contends, hd, he, ho] at this

/-- Four bound channels on port 0: an input with its pull-up, an output, an active-low tri-state output last written LOW, and a
floating input. -/
def demo : State :=
  ((((((State.reset.setChan 0 ⟨.inp, ⟨0, 0⟩, true, true⟩).setChan 1 ⟨.out, ⟨0, 1⟩, false, false⟩).setChan 2
    ⟨.tri, ⟨0, 2⟩, true, false⟩).setChan 3 ⟨.inp, ⟨0, 6⟩, true, false⟩).setTri 2 .low).setDir 0 0x06).setOut 0 0x05

/-- The controller after boot, ON, at a phase, with the next moves. -/
def ctl (ph : Phase) (ms : List Move) : State :=
  { (((((State.reset.setChan 0 ⟨.inp, ⟨0, 0⟩, true, true⟩).setChan 1 ⟨.out, ⟨0, 1⟩, false, false⟩).setChan 2
      ⟨.out, ⟨0, 2⟩, false, false⟩).setChan 3 ⟨.out, ⟨0, 3⟩, false, false⟩).setChan 4
      ⟨.out, ⟨0, 4⟩, false, false⟩).setDir 0 0x1E |>.setOut 0 0x17 with
    lp := ph, on := true, ien := true, btnLast := true, countdown := 1, sched := ms }

/-- A command list of one word, LOOP's turn next. -/
def listOf (w : CmdWord) : State := State.reset.withFetchWord 16 w.toNat

/-! WellFormed: each check refuses a term that does not meet it. -/

theorem test_wf_default : Config.default.valid = true := by decide
theorem test_wf_ports_low : { Config.default with numPorts := 0 }.portsOk = false := by decide
theorem test_wf_ports_high : { Config.default with numPorts := 17 }.portsOk = false := by decide
theorem test_wf_ports_edge : { Config.default with numPorts := 16 }.portsOk = true := by decide
theorem test_wf_pin_range : { Config.default with pinAux := ⟨1, 0⟩ }.pinsOk = false := by decide
theorem test_wf_pins_distinct : { Config.default with pinInd := ⟨0, 1⟩ }.pinsDistinct = false := by decide
theorem test_wf_arm_edge : { Config.default with powerOnTime := 65535 }.armsOk = true := by decide
theorem test_wf_arm_full : { Config.default with powerOnTime := 65536 }.armsOk = false := by decide
theorem test_wf_arm_short : { Config.default with pendingOffTicks := 65536 }.armsOk = false := by decide
theorem test_wf_phase_zero : { Config.default with tickPhaseMs := 0 }.ticksOk = false := by decide
theorem test_wf_phase_late : { Config.default with tickPhaseMs := 1001 }.ticksOk = false := by decide
theorem test_wf_valid_refuses : { Config.default with pinInd := ⟨0, 1⟩ }.valid = false := by decide
theorem test_wf_bindOut : (Instr.bindOut 0 ⟨15, 7⟩ true).wf Config.default = false := by decide
theorem test_wf_bindTri : (Instr.bindTri 0 ⟨1, 0⟩ true).wf Config.default = false := by decide
theorem test_wf_bindIn : (Instr.bindIn 0 ⟨1, 0⟩ true true).wf Config.default = false := by decide
theorem test_wf_bind_ok : (Instr.bindIn 0 ⟨0, 7⟩ true true).wf Config.default = true := by decide

/-! Decode: words written out bit by bit, `op ch port idx al arg` (R81). -/

-- BIND.OUT c1, p0.3, al=1 (R92)
theorem test_decode_bindOut : decodeWord (0b000#3 ++ 0b001#3 ++ 0b0000#4 ++ 0b011#3 ++ 0b1#1 ++ 0b00#2)
    = .ok (.bindOut 1 ⟨0, 3⟩ true) := by decide
-- BIND.TRI c5, p1.6, al=0 (R92)
theorem test_decode_bindTri : decodeWord (0b001#3 ++ 0b101#3 ++ 0b0001#4 ++ 0b110#3 ++ 0b0#1 ++ 0b00#2)
    = .ok (.bindTri 5 ⟨1, 6⟩ false) := by decide
-- BIND.IN c1, p2.5, al=0, pu=1 (DC9)
theorem test_decode_bindIn : decodeWord (0b010#3 ++ 0b001#3 ++ 0b0010#4 ++ 0b101#3 ++ 0b0#1 ++ 0b01#2)
    = .ok (.bindIn 1 ⟨2, 5⟩ false true) := by decide
-- WRITE c7, 1 (DC14)
theorem test_decode_write : decodeWord (0b011#3 ++ 0b111#3 ++ 0b0000#4 ++ 0b000#3 ++ 0b0#1 ++ 0b01#2)
    = .ok (.write 7 true) := by decide
-- TRI.WRITE c5, HIGH_Z (DC16)
theorem test_decode_triWrite : decodeWord (0b100#3 ++ 0b101#3 ++ 0b0000#4 ++ 0b000#3 ++ 0b0#1 ++ 0b10#2)
    = .ok (.triWrite 5 .highZ) := by decide
-- TRI.WRITE c2, LOW and HIGH (R85)
theorem test_decode_levels : decodeWord (0b100#3 ++ 0b010#3 ++ 0b0000#4 ++ 0b000#3 ++ 0b0#1 ++ 0b00#2) = .ok (.triWrite 2 .low) ∧
    decodeWord (0b100#3 ++ 0b010#3 ++ 0b0000#4 ++ 0b000#3 ++ 0b0#1 ++ 0b01#2) = .ok (.triWrite 2 .high) := by decide
-- READ c7 (DC20)
theorem test_decode_read : decodeWord (0b101#3 ++ 0b111#3 ++ 0b0000#4 ++ 0b000#3 ++ 0b0#1 ++ 0b00#2)
    = .ok (.read 7) := by decide
-- event codes (R91)
theorem test_decode_tick : decode (.event 0) = .ok .tick := by decide
theorem test_decode_edge : decode (.event 1) = .ok .edge := by decide
-- DC2, DC8, DC12, DC21: a must-be-zero bit
theorem test_decode_reserved_field : decodeWord 0x0001 = .error .reservedField ∧ decodeWord 0x4002 = .error .reservedField ∧
    decodeWord 0x6002 = .error .reservedField ∧ decodeWord 0xA001 = .error .reservedField := by decide
-- DC17, DC18: the field check comes before the level check
theorem test_decode_reserved_level : decodeWord 0x8803 = .error .reservedLevel ∧
    decodeWord 0x8843 = .error .reservedField := by decide
-- DC24, DC25: reserved operations, whatever the other bits
theorem test_decode_illegal : decodeWord 0xDFFF = .error .illegalOp ∧ decodeWord 0xE000 = .error .illegalOp := by decide
-- R92: 0x4015 is BIND.IN c0, p0.2, al=1, pu=1
theorem test_encode_bindIn : encode (.bindIn 0 ⟨0, 2⟩ true true) = .cmd 0x4015 := by decide
theorem test_asm_bindIn : (Instr.bindIn 0 ⟨0, 2⟩ true true).asm = "BIND.IN c0, p0.2, al=1, pu=1" := by decide
-- D40: 0x041C is stored as 1C 04
theorem test_bytes : decodeBytes [0x1C, 0x04, 0xFF] = .ok (.bindOut 1 ⟨0, 3⟩ true, [0xFF]) ∧
    decodeBytes [0x1C] = .error .truncated := by decide

/-! One atomic step of each instruction. -/

-- BV1: μ0 binds the channel and leaves DIR; μ1 gives DIR[0] = 0x08
theorem test_bindOut_bind : answers (exec (.bindOut 1 ⟨0, 3⟩ true) State.reset) (fun t =>
    decide (t.chanOf 1 = some ⟨.out, ⟨0, 3⟩, true, false⟩ ∧ t.dirOf 0 = 0x00 ∧ t.cip = .busy 0x041C 1 0x00)) = true := by
  decide
theorem test_bindOut_drive : answers (exec (.bindOut 1 ⟨0, 3⟩ true) (State.reset.setCip (.busy 0x041C 1 0x00))) (fun t =>
    decide (t.dirOf 0 = 0x08 ∧ t.outOf 0 = 0x00 ∧ t.cip = .idle)) = true := by decide
-- BV10 (another kind): the pin is held by another channel
theorem test_bindTri_owned : answers (exec (.bindTri 7 ⟨0, 2⟩ false) demo) (fun t =>
    decide (t.fault.code = 7 ∧ t.faultWord = 0x3C10 ∧ t.faultPin = some ⟨0, 2⟩ ∧ t.chanOf 7 = none)) = true := by decide
-- BV3: DIR[1] = 0x40
theorem test_bindTri_drive : answers (exec (.bindTri 5 ⟨1, 6⟩ false) (State.reset.setCip (.busy 0x3470 1 0x00))) (fun t =>
    decide (t.dirOf 1 = 0x40 ∧ t.dirOf 0 = 0x00)) = true := by decide
-- BV6: μ1 clears the direction bit and goes on; μ3 gives OUT[0] = 0x04
theorem test_bindIn_read : answers (exec (.bindIn 0 ⟨0, 2⟩ true true) (State.reset.setCip (.busy 0x4015 1 0xFF))) (fun t =>
    decide (t.dirOf 0 = 0xFB ∧ t.outOf 0 = 0x00 ∧ t.cip = .busy 0x4015 2 0xFF)) = true := by decide
theorem test_bindIn_pullup : answers (exec (.bindIn 0 ⟨0, 2⟩ true true) (State.reset.setCip (.busy 0x4015 3 0x00))) (fun t =>
    decide (t.outOf 0 = 0x04 ∧ t.cip = .idle)) = true := by decide
-- R111's example: al = 1, OUT[0] = 0x08, WRITE c1, 1 gives OUT[0] = 0x00
theorem test_write_low : answers (exec (.write 1 true)
    ((State.reset.setChan 1 ⟨.out, ⟨0, 3⟩, true, false⟩).setCip (.busy 0x6401 1 0x08))) (fun t =>
    decide (t.outOf 0 = 0x00 ∧ t.cip = .idle)) = true := by decide
theorem test_write_wrong_kind : answers (exec (.write 2 true) demo) (fun t =>
    decide (t.fault.code = 8 ∧ t.faultWord = 0x6801 ∧ t.faultPin = some ⟨0, 2⟩ ∧ t.outOf 0 = 0x05)) = true := by decide
-- R114's example: DIR[1] = 0x00 and triLast = HIGH_Z together, then OUT[1] = 0x00
theorem test_triWrite_float : answers (exec (.triWrite 5 .highZ)
    (((State.reset.setChan 5 ⟨.tri, ⟨1, 6⟩, false, false⟩).setDir 1 0x40).setCip (.busy 0x9402 1 0x40))) (fun t =>
    decide (t.dirOf 1 = 0x00 ∧ t.triOf 5 = .highZ ∧ t.cip = .busy 0x9402 2 0x40)) = true := by decide
theorem test_triWrite_low : answers (exec (.triWrite 5 .highZ)
    ((State.reset.setChan 5 ⟨.tri, ⟨1, 6⟩, false, false⟩).setCip (.busy 0x9402 3 0x40))) (fun t =>
    decide (t.outOf 1 = 0x00 ∧ t.cip = .idle)) = true := by decide
-- R118's example: the pressed button reads 1
theorem test_read_pressed : answers (exec (.read 0) (demo.setExt ⟨0, 0⟩ .l)) (fun t =>
    decide (t.rdLoop = true ∧ t.rdEdge = false ∧ t.draws = 0)) = true := by decide
theorem test_read_unbound : answers (exec (.read 7) demo) (fun t =>
    decide (t.fault.code = 4 ∧ t.faultWord = 0xBC00 ∧ t.faultPin = none)) = true := by decide
-- R142's example, and T1
theorem test_tick : answers (exec .tick { State.reset with countdown := 2, tickPending := true }) (fun t =>
    decide (t.countdown = 1 ∧ t.tickPending = false)) = true := by decide
theorem test_tick_floor : answers (exec .tick { State.reset with tickPending := true }) (fun t =>
    decide (t.countdown = 0)) = true := by decide
-- R146's example, and its release edge
theorem test_edge_press : answers (exec .edge { demo.setExt ⟨0, 0⟩ .l with edgePending := 1 }) (fun t =>
    decide (t.edgePending = 0 ∧ t.rdEdge = true ∧ t.pressed = true ∧ t.rdLoop = false)) = true := by decide
theorem test_edge_release : answers (exec .edge { demo with edgePending := 2 }) (fun t =>
    decide (t.edgePending = 1 ∧ t.rdEdge = false ∧ t.pressed = false)) = true := by decide

/-! One step of the block. -/

-- every row of the table decodes, and is the next instruction the step runs (FP vectors: a READ of an unbound channel faults)
theorem test_fetch_commands :
    answers (step (listOf 0x041C)) (fun t => decide (t.cip = .busy 0x041C 1 0)) = true ∧
    answers (step (listOf 0x3430)) (fun t => decide (t.cip = .busy 0x3430 1 0)) = true ∧
    answers (step (listOf 0x4015)) (fun t => decide (t.cip = .busy 0x4015 1 0)) = true ∧
    answers (step (listOf 0x7001)) (fun t => decide (t.fault = .unboundChannel ∧ t.faultWord = 0x7001)) = true ∧
    answers (step (listOf 0x9402)) (fun t => decide (t.fault = .unboundChannel ∧ t.faultWord = 0x9402)) = true ∧
    answers (step (listOf 0xA000)) (fun t => decide (t.fault = .unboundChannel ∧ t.faultWord = 0xA000)) = true := by
  decide
theorem test_fetch_events :
    answers (step (State.reset.withFetchWord 8 0)) (fun t => decide (t.tickPending = false ∧ t.fault = .none)) = true ∧
    answers (step (State.reset.withFetchWord 8 1)) (fun t => decide (t.fault = .unboundChannel ∧ t.faultWord = 0xA000)) = true := by
  decide
-- BV11: driven against EXT = H, after the step's effect
theorem test_contention : answers (step { (listOf 0x0418).setExt ⟨0, 3⟩ .h with cip := .busy 0x0418 1 0 }) (fun t =>
    decide (t.fault.code = 9 ∧ t.faultWord = 0 ∧ t.faultPin = some ⟨0, 3⟩ ∧ t.dirOf 0 = 0x08 ∧ t.lp = .done)) = true := by decide
-- BV12: EXT = L agrees with the driven 0
theorem test_no_contention : answers (step { (listOf 0x0418).setExt ⟨0, 3⟩ .l with cip := .busy 0x0418 1 0 }) (fun t =>
    decide (t.fault = .none ∧ t.dirOf 0 = 0x08)) = true := by decide
-- R145: the press is counted in the epilogue of ENV's own step
theorem test_edge_detector : answers (step (ctl .s0 [.setExt ⟨0, 0⟩ .l])) (fun t =>
    decide (t.edgePending = 1 ∧ t.btnLast = false ∧ t.extOf ⟨0, 0⟩ = .l ∧ t.pressed = false)) = true := by decide
-- R186: the tick at now = nextTick
theorem test_advance : answers (step { ctl .s0 [.advance] with polled := true, now := 999 }) (fun t =>
    decide (t.now = 1000 ∧ t.nextTick = 2000 ∧ t.tickPending = true ∧ t.polled = false)) = true := by decide
-- R94, R231: BOOT0's word for PIN_BUTTON = (0, 0)
theorem test_boot_word : phaseWord Config.default .boot0 = some 0x4005 ∧ phaseWord Config.default .boot4 = some 0x1020 := by
  decide

/-! States that meet the hypotheses of the obligations, clause by clause. -/

-- DecodedCodeIsTheEncoding, DecodeFollowsTableRows and BytesDecodeAgree
theorem test_hyp_decoded : decode (.cmd 0x9402) = .ok (.triWrite 5 .highZ) ∧ tableRow (BitVec.ofNat 3 (0xE000 / 2 ^ 13)) = none ∧
    Instr.read 0 ≠ .tick ∧ Instr.read 0 ≠ .edge := by decide

-- BindOutCompletes, BindTriCompletes, BindInCompletes and BindShowsStaleLevel, at the highest channel and pin
theorem test_hyp_bind : demo.fault = .none ∧ demo.cip = .idle ∧ demo.chanOf 7 = none ∧ (0 : Nat) < demo.cfg.numPorts ∧
    ∀ c', c' ≠ 7 → ∀ b, demo.chanOf c' = some b → b.pin ≠ ⟨0, 7⟩ :=
  have h := bind_hyps (s := demo) (c := 7) (q := ⟨0, 7⟩) (by decide)
  ⟨by decide, by decide, h.1, h.2.1, h.2.2⟩

-- WriteCompletes, SiblingPreserved, WriteSetsLogicalLevel
theorem test_hyp_write : demo.fault = .none ∧ demo.cip = .idle ∧
    demo.chanOf 1 = some ⟨.out, ⟨0, 1⟩, false, false⟩ ∧ demo.dirBit ⟨0, 1⟩ = true := by decide

-- the sibling input of SiblingPreserved, and the undriven line of WriteSetsLogicalLevel
theorem test_hyp_sibling : demo.chanOf 0 = some ⟨.inp, ⟨0, 0⟩, true, true⟩ ∧ (⟨0, 0⟩ : Pin) ≠ ⟨0, 1⟩ ∧
    demo.lineLevel ⟨0, 0⟩ = some true ∧ demo.extOf ⟨0, 1⟩ = .z := by decide

-- TriWriteCompletes, HighZWritesLogicalLow
theorem test_hyp_triWrite : demo.fault = .none ∧ demo.cip = .idle ∧
    demo.chanOf 2 = some ⟨.tri, ⟨0, 2⟩, true, false⟩ ∧ demo.extOf ⟨0, 2⟩ = .z := by decide

-- ReadCompletes where the level is determined
theorem test_hyp_read : demo.fault = .none ∧ demo.cip = .idle ∧ demo.chanOf 0 = some ⟨.inp, ⟨0, 0⟩, true, true⟩ ∧
    demo.levelGives ⟨0, 0⟩ true 0 := by
  refine ⟨by decide, by decide, by decide, .inl ?_⟩
  decide

-- ReadCompletes where the level is a draw
theorem test_hyp_read_draw : demo.chanOf 3 = some ⟨.inp, ⟨0, 6⟩, true, false⟩ ∧
    demo.levelGives ⟨0, 6⟩ (Config.freeBit 0) 1 :=
  ⟨by decide, .inr ⟨by decide, rfl, rfl⟩⟩

-- TickDecrements: pending, not pending, faulted
theorem test_hyp_tick : { demo with tickPending := true }.fault = .none ∧ { demo with tickPending := true }.tickPending = true ∧
    demo.tickPending = false ∧ { demo with fault := .contention }.fault ≠ .none := by decide

-- EdgeLatches, ButtonReadsActiveLow, with the line pulled low
theorem test_hyp_edge : ∃ s : State, s.fault = .none ∧ 0 < s.edgePending ∧ s.chanOf 0 = some ⟨.inp, ⟨0, 0⟩, true, true⟩ ∧
    s.dirBit ⟨0, 0⟩ = false ∧ s.outBit ⟨0, 0⟩ = true ∧ s.extOf ⟨0, 0⟩ = .l ∧ s.levelGives ⟨0, 0⟩ false 0 :=
  ⟨{ demo.setExt ⟨0, 0⟩ .l with edgePending := 1 }, by decide, by decide, by decide, by decide, by decide, by decide,
    .inl (by decide)⟩

-- the second clause of EdgeLatches
theorem test_hyp_edge_none : demo.fault = .none ∧ demo.edgePending = 0 := by decide

-- BindFaultOrder: the channel is bound; the port is the first that does not exist; another channel holds the pin
theorem test_hyp_bind_faults : demo.fault = .none ∧ demo.cip = .idle ∧ demo.chanOf 0 ≠ none ∧ demo.chanOf 7 = none ∧
    demo.cfg.numPorts ≤ (1 : PortNo).val ∧ (0 : PortNo).val < demo.cfg.numPorts ∧
    (0 : Chan) ≠ 7 ∧ demo.chanOf 0 = some ⟨.inp, ⟨0, 0⟩, true, true⟩ := by decide

-- ChannelCheckFaults: unbound, wrong kind, right kind
theorem test_hyp_channel_check : demo.chanOf 7 = none ∧ demo.chanOf 2 = some ⟨.tri, ⟨0, 2⟩, true, false⟩ ∧
    Kind.tri ≠ .out ∧ demo.chanOf 1 = some ⟨.out, ⟨0, 1⟩, false, false⟩ := by decide

-- CommandsLeaveControllerState
theorem test_hyp_command_next : ∃ t, exec (.write 1 true) demo = .next t ∧ t.fault = .none := by
  obtain ⟨t, h, hp⟩ := exists_next (o := exec (.write 1 true) demo) (p := fun t => decide (t.fault = .none)) (by decide)
  exact ⟨t, h, of_decide_eq_true hp⟩

-- CommandFaultKeepsState, for a command
theorem test_hyp_command_fault : ∃ t, exec (.write 7 true) demo = .next t ∧ t.fault ≠ .none := by
  obtain ⟨t, h, hp⟩ := exists_next (o := exec (.write 7 true) demo) (p := fun t => decide (t.fault ≠ .none)) (by decide)
  exact ⟨t, h, of_decide_eq_true hp⟩

-- CommandFaultKeepsState, for EDGE
theorem test_hyp_edge_fault : ∃ s t, exec .edge s = .next t ∧ t.fault ≠ .none := by
  obtain ⟨t, h, hp⟩ := exists_next (o := exec .edge { State.reset with edgePending := 1 })
    (p := fun t => decide (t.fault ≠ .none)) (by decide)
  exact ⟨_, t, h, of_decide_eq_true hp⟩

-- InterleavedWriteIsLost: a stale read of OUT, and of DIR
theorem test_hyp_lost_write : (demo.setCip (.busy 0x6401 1 0x00)).fault = .none ∧
    (demo.setCip (.busy 0x6401 1 0x00)).chanOf 1 = some ⟨.out, ⟨0, 1⟩, false, false⟩ ∧
    (demo.setCip (.busy 0x6401 1 0x00)).cip = .busy (Instr.write 1 true).word 1 0x00 := by decide
theorem test_hyp_lost_bind : (demo.setCip (.busy 0x1C38 1 0x00)).fault = .none ∧
    (demo.setCip (.busy 0x1C38 1 0x00)).cip = .busy (Instr.bindOut 7 ⟨0, 7⟩ false).word 1 0x00 := by decide

-- LineLevelTable: a driven pin against each drive, both output bits
theorem test_hyp_driven : demo.dirBit ⟨0, 1⟩ = true ∧ demo.outBit ⟨0, 1⟩ = false ∧ demo.extOf ⟨0, 1⟩ = .z ∧
    (demo.setExt ⟨0, 1⟩ .l).extOf ⟨0, 1⟩ = .l ∧ (demo.setExt ⟨0, 1⟩ .h).extOf ⟨0, 1⟩ = .h ∧
    demo.dirBit ⟨0, 2⟩ = true ∧ demo.outBit ⟨0, 2⟩ = true ∧
    (demo.setExt ⟨0, 2⟩ .l).extOf ⟨0, 2⟩ = .l ∧ (demo.setExt ⟨0, 2⟩ .h).extOf ⟨0, 2⟩ = .h := by decide
-- and a floating pin, with and without its pull-up
theorem test_hyp_floating : demo.dirBit ⟨0, 0⟩ = false ∧ demo.extOf ⟨0, 0⟩ = .z ∧ demo.outBit ⟨0, 0⟩ = true ∧
    demo.dirBit ⟨0, 6⟩ = false ∧ demo.outBit ⟨0, 6⟩ = false ∧
    (demo.setExt ⟨0, 0⟩ .l).extOf ⟨0, 0⟩ = .l ∧ (demo.setExt ⟨0, 0⟩ .h).extOf ⟨0, 0⟩ = .h := by decide

-- StepRunsDecodedCommand, with a next state
theorem test_hyp_step_command : (ctl .z1 [.loop]).cfg.valid = true ∧ (ctl .z1 [.loop]).fault = .none ∧
    (ctl .z1 [.loop]).sched = .loop :: [] ∧ phaseWord (ctl .z1 [.loop]).cfg (ctl .z1 [.loop]).lp = some 0x7000 ∧
    decodeWord 0x7000 = .ok (.write 4 false) ∧
    answers (exec (.write 4 false) { ctl .z1 [.loop] with sched := [] }) (fun _ => true) = true := by decide
-- and with a stop: a command in progress that is not the phase's
theorem test_hyp_step_stop :
    exec (.write 4 false) { ctl .z1 [.loop] with sched := [], cip := .busy 0x7001 1 0 } = .fault .cipConflict := rfl

-- StepRunsPendingHandler
theorem test_hyp_step_tick : { ctl .z0 [.tick] with tickPending := true }.cfg.valid = true ∧
    { ctl .z0 [.tick] with tickPending := true }.fault = .none ∧
    { ctl .z0 [.tick] with tickPending := true }.sched = .tick :: [] ∧
    { ctl .z0 [.tick] with tickPending := true }.tickPending = true := by decide
theorem test_hyp_step_edge : { ctl .z0 [.edge] with edgePending := 1 }.cfg.valid = true ∧
    { ctl .z0 [.edge] with edgePending := 1 }.fault = .none ∧
    { ctl .z0 [.edge] with edgePending := 1 }.sched = .edge :: [] ∧
    0 < { ctl .z0 [.edge] with edgePending := 1 }.edgePending := by decide

-- IllFormedWordFaults
theorem test_hyp_ill_formed : (listOf 0xC000).cfg.valid = true ∧ (listOf 0xC000).fault = .none ∧
    (listOf 0xC000).sched = .loop :: [] ∧ phaseWord (listOf 0xC000).cfg (listOf 0xC000).lp = some 0xC000 ∧
    decodeWord 0xC000 = .error .illegalOp := by decide

-- PhasesIssueSpecWords
theorem test_hyp_phase : Phase.ofController .z3x = true := by decide

-- DispatchOnOn, LoopTests, LoopArms, HoldsClearTheLatch, WaitsEndNotBefore and BootEnablesInterrupts: any phase without a fault
theorem test_hyp_loop (ph : Phase) : (ctl ph []).fault = .none ∧ (ctl ph []).cfg.valid = true ∧ (ctl ph []).lp = ph :=
  ⟨rfl, test_wf_default, rfl⟩
-- both values of `polled`, of the zero check and of a wait's end; the button's level is determined
theorem test_hyp_loop_clauses : (ctl .s0 []).polled = false ∧ { ctl .s0 [] with polled := true }.polled = true ∧
    (ctl .z0 []).countdown ≠ 0 ∧ { ctl .z0 [] with countdown := 0 }.countdown = 0 ∧
    { ctl .b5w [] with waitUntil := 7, now := 7 }.waitUntil ≤ { ctl .b5w [] with waitUntil := 7, now := 7 }.now ∧
    { ctl .b5w [] with waitUntil := 7, now := 6 }.now < { ctl .b5w [] with waitUntil := 7, now := 6 }.waitUntil ∧
    (ctl .boot5 []).lineLevel (ctl .boot5 []).cfg.pinButton = some true ∧
    (ctl .boot5 []).dirBit (ctl .boot5 []).cfg.pinButton = false ∧
    (ctl .boot5 []).outBit (ctl .boot5 []).cfg.pinButton = true := by decide

-- AdvanceRule: polled at S0, the last millisecond of a wait, done
theorem test_hyp_advance : { ctl .s0 [] with polled := true }.enabled .advance = true ∧
    { ctl .b3w [] with waitUntil := 100, now := 99 }.enabled .advance = true ∧ (ctl .done []).enabled .advance = true := by
  decide

-- SetExtRule
theorem test_hyp_setExt : demo.fault = .none ∧ (⟨0, 7⟩ : Pin).port.val < demo.cfg.numPorts := by decide

-- ContentionFaults: the lowest opposed pin after ENV's own step
theorem test_hyp_contention : ∃ u, (ctl .s0 [.setExt ⟨0, 1⟩ .l]).taken = some (.setExt ⟨0, 1⟩ .l) ∧
    (ctl .s0 [.setExt ⟨0, 1⟩ .l]).wanted.2.act (.setExt ⟨0, 1⟩ .l) = .next u ∧ u.fault = .none ∧ u.opposed ⟨0, 1⟩ ∧
    ∀ r, u.opposed r → pinLe ⟨0, 1⟩ r := by
  refine ⟨(ctl .s0 []).setExt ⟨0, 1⟩ .l, by decide, rfl, by decide,
    ⟨by decide, by decide, .inl ⟨by decide, by decide⟩⟩, ?_⟩
  rintro ⟨p, i⟩ ⟨-, hd, h⟩
  rcases p with ⟨_ | p, hp⟩
  · right
    refine ⟨rfl, ?_⟩
    rcases i with ⟨_ | i, hi⟩
    · exact absurd hd (by decide +revert)
    · exact Nat.succ_le_succ (Nat.zero_le i)
  · left; exact Nat.succ_pos p

-- ContentionFaults' second clause and EdgeDetectorCounts: a change of the button's level, with interrupts enabled
theorem test_hyp_edge_detector : ∃ u, (ctl .s0 [.setExt ⟨0, 0⟩ .l]).taken = some (.setExt ⟨0, 0⟩ .l) ∧
    (ctl .s0 [.setExt ⟨0, 0⟩ .l]).wanted.2.act (.setExt ⟨0, 0⟩ .l) = .next u ∧ u.fault = .none ∧
    (∀ q, ¬ u.opposed q) ∧ u.levelGives u.cfg.pinButton false 0 ∧ u.ien = true ∧ false ≠ u.btnLast :=
  ⟨(ctl .s0 []).setExt ⟨0, 0⟩ .l, by decide, rfl, by decide, not_opposed (by decide), .inl (by decide), by decide,
    by decide⟩
-- no change; and interrupts not enabled
theorem test_hyp_edge_detector_same : ∃ u, (ctl .s0 [.setExt ⟨0, 0⟩ .h]).wanted.2.act (.setExt ⟨0, 0⟩ .h) = .next u ∧
    u.levelGives u.cfg.pinButton true 0 ∧ u.ien = true ∧ true = u.btnLast :=
  ⟨(ctl .s0 []).setExt ⟨0, 0⟩ .h, rfl, .inl (by decide), by decide, by decide⟩
theorem test_hyp_edge_detector_off : ∃ u, { ctl .s0 [.setExt ⟨0, 0⟩ .h] with ien := false }.wanted.2.act
    (.setExt ⟨0, 0⟩ .h) = .next u ∧ u.ien = false :=
  ⟨{ (ctl .s0 []).setExt ⟨0, 0⟩ .h with ien := false }, rfl, rfl⟩

-- FaultStopsEveryAgent, InvalidConfigRefused
theorem test_hyp_stops : { demo with fault := .wrongKind }.fault ≠ .none ∧ demo.cfg.valid = true ∧
    { demo with cfg := { Config.default with numPorts := 0 } }.cfg.valid = false := by decide

-- ResetValues and InvariantsHoldAtReset: each loop mode
theorem test_hyp_reset : Config.default.valid = true ∧ Config.default.loopMode = .controller ∧
    { Config.default with loopMode := .commandList [] }.loopMode = .commandList [] ∧
    { Config.default with loopMode := .commandList [0x041C] }.loopMode = .commandList [0x041C] ∧
    { Config.default with loopMode := .commandList [0x041C, 0xC000] }.valid = true := by decide

/-- `demo` in the middle of TRI.WRITE c2, HIGH_Z: the only command of its list, LOOP's turn next. -/
def midTriWrite : State :=
  { demo with
    cfg := { demo.cfg with loopMode := .commandList [0x8802] }
    lp := .cmd 0
    cip := .busy 0x8802 1 0x06
    sched := [.loop] }

-- MuxInvariantKept
theorem test_hyp_mux : midTriWrite.muxInv ∧ ∃ t, step midTriWrite = .next t := by
  refine ⟨⟨?_, ?_, ?_⟩, ?_⟩
  · unfold State.chanOk; decide
  · exact ⟨.triWrite 2 .highZ, by decide, ⟨.tri, ⟨0, 2⟩, true, false⟩, by decide, rfl, .inl ⟨rfl, by decide⟩⟩
  · unfold State.directionOk; decide
  · obtain ⟨t, h, -⟩ := exists_next (o := step midTriWrite) (p := fun _ => true) (by decide)
    exact ⟨t, h⟩

-- OffMeansCountdownZero, at the step that clears `on`; WaitWindowKept, at the last millisecond of a wait
theorem test_hyp_on : { ctl .z4 [.loop] with countdown := 0 }.onInv ∧
    ∃ t, step { ctl .z4 [.loop] with countdown := 0 } = .next t := by
  refine ⟨by unfold State.onInv; decide, ?_⟩
  obtain ⟨t, h, -⟩ := exists_next (o := step { ctl .z4 [.loop] with countdown := 0 }) (p := fun _ => true) (by decide)
  exact ⟨t, h⟩
theorem test_hyp_wait : { ctl .a5w [.advance] with waitUntil := 100, now := 99 }.waitInv ∧
    ∃ t, step { ctl .a5w [.advance] with waitUntil := 100, now := 99 } = .next t := by
  refine ⟨by unfold State.waitInv; decide, ?_⟩
  obtain ⟨t, h, -⟩ := exists_next (o := step { ctl .a5w [.advance] with waitUntil := 100, now := 99 })
    (p := fun _ => true) (by decide)
  exact ⟨t, h⟩

-- TickScheduleKept, at the tick instant; EventAndFaultRecordsKept
theorem test_hyp_tick_schedule : { ctl .s0 [.advance] with polled := true, now := 999 }.tickInv ∧
    ∃ t, step { ctl .s0 [.advance] with polled := true, now := 999 } = .next t := by
  refine ⟨⟨by decide, by decide, 0, by decide⟩, ?_⟩
  obtain ⟨t, h, -⟩ := exists_next (o := step { ctl .s0 [.advance] with polled := true, now := 999 })
    (p := fun _ => true) (by decide)
  exact ⟨t, h⟩
theorem test_hyp_records : (listOf 0xC000).ienInv ∧ (listOf 0xC000).faultInv ∧ ∃ t, step (listOf 0xC000) = .next t := by
  refine ⟨by unfold State.ienInv; decide, by unfold State.faultInv; decide, ?_⟩
  obtain ⟨t, h, -⟩ := exists_next (o := step (listOf 0xC000)) (p := fun _ => true) (by decide)
  exact ⟨t, h⟩

/-- The running controller at a phase meets its invariant. -/
theorem ctl_inv (ph : Phase) (ms : List Move) (h1 : ph.ofController = true) (h2 : ph.isBoot = false)
    (h3 : ph.bindsDone = 5) : (ctl ph ms).controllerInv := by
  refine ⟨test_wf_default, rfl, rfl, h1, trivial, trivial, ?_, ?_, ?_, ?_, fun h => ?_⟩
  · intro c
    have h5 : (ctl ph ms).boundCount = 5 := h3
    have h : ∀ c, (ctl .s0 []).chanOf c = if c.val < 5 then controllerBinding Config.default c else none := by decide
    rw [h5]; exact h c
  · rintro ⟨p, i⟩ hd
    have h : ∀ p i, (ctl .s0 []).dirBit ⟨p, i⟩ = true → (⟨p, i⟩ : Pin) ∈ outputPins Config.default := by
      decide +kernel
    refine ⟨h p i hd, fun h0 => ?_⟩
    rw [show ph = .boot0 from h0] at h2; cases h2
  · intro c b hb hk _
    have h : ∀ c, ∀ b ∈ controllerBinding Config.default c, b.kind = .out → (ctl .s0 []).dirBit b.pin = true := by decide
    exact h c b hb hk
  · intro _ q hq
    have : ∀ q ∈ outputPins Config.default, (ctl .s0 []).extOf q = .z := by decide
    exact this q hq
  · rw [show (ctl ph ms).lp = ph from rfl, h2] at h; cases h

-- ControllerNeverFaults: ENV pulls the button low
theorem test_hyp_controller : (ctl .b6 [.setExt ⟨0, 0⟩ .l]).controllerInv ∧
    ∀ m, (ctl .b6 [.setExt ⟨0, 0⟩ .l]).taken = some m → dutiful (ctl .b6 [.setExt ⟨0, 0⟩ .l]).wanted.2 m := by
  refine ⟨ctl_inv _ _ rfl rfl rfl, fun m hm => ?_⟩
  have : (ctl .b6 [.setExt ⟨0, 0⟩ .l]).taken = some (.setExt ⟨0, 0⟩ .l) := by decide
  rw [this] at hm; cases hm
  intro _ h; revert h; decide

-- RelaysFollowOn, RelaysKeptDuringPressWhileOn: the indicator's write at B7
theorem test_hyp_relays : (ctl .b7 [.loop]).controllerInv ∧ (ctl .b7 [.loop]).relayInv ∧
    (ctl .b7 [.loop]).lp.pressWhileOn = true ∧ ∃ t, step (ctl .b7 [.loop]) = .next t := by
  refine ⟨ctl_inv _ _ rfl rfl rfl, by unfold State.relayInv State.auxFollows State.shows; refine ⟨?_, ?_, ?_, ?_, ?_, ?_, ?_⟩ <;> decide, rfl, ?_⟩
  obtain ⟨t, h, -⟩ := exists_next (o := step (ctl .b7 [.loop])) (p := fun _ => true) (by decide)
  exact ⟨t, h⟩

-- RelaysFollowOn: the end of a power-off, the four outputs at logical 0
theorem test_hyp_power_off : { (ctl .z4 [.loop]).setOut 0 0x01 with countdown := 0 }.controllerInv ∧
    { (ctl .z4 [.loop]).setOut 0 0x01 with countdown := 0 }.relayInv ∧
    answers (step { (ctl .z4 [.loop]).setOut 0 0x01 with countdown := 0 }) (fun t => !t.on) = true :=
  ⟨ctl_inv .z4 [.loop] rfl rfl rfl, by unfold State.relayInv State.auxFollows State.shows; refine ⟨?_, ?_, ?_, ?_, ?_, ?_, ?_⟩ <;> decide, by decide⟩

-- RelaysFollowOn: a tick while OFF
theorem test_hyp_off : ∃ s : State, s.controllerInv ∧ s.relayInv ∧ s.onInv ∧ s.offInv ∧ s.on = false ∧
    s.taken = some .tick ∧ answers (step s) (fun _ => true) = true :=
  have ⟨h1, h2, h3, h4, h5, h6, h7, h8, h9, h10, _⟩ := ctl_inv .s0 [.tick] rfl rfl rfl
  ⟨{ (ctl .s0 [.tick]).setOut 0 0x01 with on := false, countdown := 0, tickPending := true },
    ⟨h1, h2, h3, h4, h5, h6, h7, h8, h9, h10, nofun⟩, by unfold State.relayInv State.auxFollows State.shows; refine ⟨?_, ?_, ?_, ?_, ?_, ?_, ?_⟩ <;> decide,
    by unfold State.onInv; decide, by unfold State.offInv State.auxFollows State.shows; decide, rfl, by decide, by decide⟩

-- OnlyTheOwnerWrites and ConfigAndBindingsFixed: a step of each kind of move
theorem test_hyp_owner_loop : (∃ t, step { ctl .b4 [.loop] with pressed := true } = .next t ∧ t.pressed = false) ∧
    { ctl .b4 [.loop] with pressed := true }.taken = some .loop := by
  refine ⟨?_, by decide⟩
  obtain ⟨t, h, hp⟩ := exists_next (o := step { ctl .b4 [.loop] with pressed := true })
    (p := fun t => !t.pressed) (by decide)
  exact ⟨t, h, by simpa using hp⟩
theorem test_hyp_owner_edge : (∃ t, step { (ctl .s0 [.edge]).setExt ⟨0, 0⟩ .l with edgePending := 1, btnLast := false }
      = .next t ∧ t.pressed = true) ∧
    { (ctl .s0 [.edge]).setExt ⟨0, 0⟩ .l with edgePending := 1, btnLast := false }.taken = some .edge := by
  refine ⟨?_, by decide⟩
  obtain ⟨t, h, hp⟩ := exists_next
    (o := step { (ctl .s0 [.edge]).setExt ⟨0, 0⟩ .l with edgePending := 1, btnLast := false })
    (p := fun t => t.pressed) (by decide)
  exact ⟨t, h, hp⟩
theorem test_hyp_owner_tick : (∃ t, step { ctl .s0 [.tick] with tickPending := true } = .next t ∧ t.countdown = 0) ∧
    { ctl .s0 [.tick] with tickPending := true }.taken = some .tick := by
  refine ⟨?_, by decide⟩
  obtain ⟨t, h, hp⟩ := exists_next (o := step { ctl .s0 [.tick] with tickPending := true })
    (p := fun t => decide (t.countdown = 0)) (by decide)
  exact ⟨t, h, of_decide_eq_true hp⟩
theorem test_hyp_owner_env : (∃ t, step { ctl .s0 [.advance] with polled := true } = .next t ∧ t.now = 1) ∧
    { ctl .s0 [.advance] with polled := true }.taken = some .advance ∧
    (ctl .s0 [.setExt ⟨0, 0⟩ .l]).taken = some (.setExt ⟨0, 0⟩ .l) := by
  refine ⟨?_, by decide, by decide⟩
  obtain ⟨t, h, hp⟩ := exists_next (o := step { ctl .s0 [.advance] with polled := true })
    (p := fun t => decide (t.now = 1)) (by decide)
  exact ⟨t, h, of_decide_eq_true hp⟩
-- and a step that changes `btnLast`, with the event recorded
theorem test_hyp_owner_detector : ∃ t, step (ctl .s0 [.setExt ⟨0, 0⟩ .l]) = .next t ∧
    t.btnLast ≠ (ctl .s0 [.setExt ⟨0, 0⟩ .l]).btnLast := by
  obtain ⟨t, h, hp⟩ := exists_next (o := step (ctl .s0 [.setExt ⟨0, 0⟩ .l]))
    (p := fun t => decide (t.btnLast ≠ (ctl .s0 [.setExt ⟨0, 0⟩ .l]).btnLast)) (by decide)
  exact ⟨t, h, of_decide_eq_true hp⟩

-- CountdownRaceBothOrders
theorem test_hyp_race : ∃ s : State, s.cfg.valid = true ∧ s.fault = .none ∧ s.lp = .z0 ∧ s.tickPending = true ∧
    s.countdown = 1 ∧ ∀ q, ¬ s.opposed q :=
  ⟨{ ctl .z0 [] with tickPending := true }, by decide, rfl, rfl, rfl, rfl, not_opposed (by decide)⟩

-- PressAtClearBothOrders
theorem test_hyp_clear : ∃ s : State, s.cfg.valid = true ∧ s.fault = .none ∧ s.lp = .b4 ∧ 0 < s.edgePending ∧
    s.chanOf 0 = some ⟨.inp, ⟨0, 0⟩, true, true⟩ ∧ s.dirBit ⟨0, 0⟩ = false ∧ s.extOf ⟨0, 0⟩ = .l ∧ ∀ q, ¬ s.opposed q :=
  ⟨{ (ctl .b4 []).setExt ⟨0, 0⟩ .l with edgePending := 1 }, by decide, rfl, rfl, by decide, by decide, by decide,
    by decide, not_opposed (by decide)⟩

-- LateLevelBothOrders
theorem test_hyp_late : ∃ s : State, s.cfg.valid = true ∧ s.fault = .none ∧ s.ien = true ∧ s.cfg.pinButton = ⟨0, 0⟩ ∧
    s.chanOf 0 = some ⟨.inp, ⟨0, 0⟩, true, true⟩ ∧ s.dirBit ⟨0, 0⟩ = false ∧ s.outBit ⟨0, 0⟩ = true ∧
    s.extOf ⟨0, 0⟩ = .z ∧ s.btnLast = true ∧ s.edgePending = 0 ∧ s.pressed = false ∧ ∀ q, ¬ s.opposed q :=
  ⟨ctl .s0 [], by decide, rfl, rfl, by decide, by decide, by decide, by decide, by decide, rfl, rfl, rfl,
    not_opposed (by decide)⟩

-- UnboundPinIsInvisible: a pin no channel holds
theorem test_hyp_unbound : midTriWrite.muxInv ∧ midTriWrite.dirBit ⟨0, 7⟩ = false ∧ (⟨0, 7⟩ : Pin) ≠ midTriWrite.cfg.pinButton ∧
    ∀ c b, midTriWrite.chanOf c = some b → b.pin ≠ ⟨0, 7⟩ := by
  refine ⟨test_hyp_mux.1, by decide, by decide, ?_⟩
  have h : ∀ c, ∀ b ∈ midTriWrite.chanOf c, b.pin ≠ ⟨0, 7⟩ := by decide
  exact fun c b hb => h c b hb

end Sys2Proof.Machine
end

section
/-! PROOF. What each static check of a configuration says, and that an invalid one has no step (R7). -/

namespace Sys2Proof

/-- R7: the number of ports is in range. -/
theorem Config.portsOk_iff (cfg : Config) : cfg.portsOk = true ↔ 1 ≤ cfg.numPorts ∧ cfg.numPorts ≤ 16 := by
  simp [Config.portsOk]

/-- R7: each line's pin exists. -/
theorem Config.pinsOk_iff (cfg : Config) : cfg.pinsOk = true ↔ ∀ q ∈ cfg.lines, q.port.val < cfg.numPorts := by
  simp only [Config.pinsOk, Config.pinExists, List.all_eq_true, decide_eq_true_eq]

/-- R7: no two lines share a pin. -/
theorem Config.pinsDistinct_iff (cfg : Config) : cfg.pinsDistinct = true ↔ cfg.lines.Nodup :=
  decide_eq_true_iff

/-- R7: both arm constants fit the countdown. -/
theorem Config.armsOk_iff (cfg : Config) :
    cfg.armsOk = true ↔ cfg.powerOnTime ≤ 2 ^ 16 - 1 ∧ cfg.pendingOffTicks ≤ 2 ^ 16 - 1 := by
  simp [Config.armsOk]

/-- R7: the tick's phase and period. -/
theorem Config.ticksOk_iff (cfg : Config) :
    cfg.ticksOk = true ↔ 1 ≤ cfg.tickPhaseMs ∧ cfg.tickPhaseMs ≤ cfg.tickPeriodMs ∧ 1 ≤ cfg.tickPeriodMs := by
  simp [Config.ticksOk, and_assoc]

/-- R7: a configuration is valid exactly when every check holds. -/
theorem Config.valid_iff (cfg : Config) :
    cfg.valid = true ↔
      (1 ≤ cfg.numPorts ∧ cfg.numPorts ≤ 16) ∧ (∀ q ∈ cfg.lines, q.port.val < cfg.numPorts) ∧ cfg.lines.Nodup ∧
      (cfg.powerOnTime ≤ 2 ^ 16 - 1 ∧ cfg.pendingOffTicks ≤ 2 ^ 16 - 1) ∧
      1 ≤ cfg.tickPhaseMs ∧ cfg.tickPhaseMs ≤ cfg.tickPeriodMs ∧ 1 ≤ cfg.tickPeriodMs := by
  rw [← cfg.portsOk_iff, ← cfg.pinsOk_iff, ← cfg.pinsDistinct_iff, ← cfg.armsOk_iff, ← cfg.ticksOk_iff]
  simp only [Config.valid, Bool.and_eq_true, and_assoc]

end Sys2Proof

namespace Sys2Proof.Machine

/-- R7, U12: the model has no run for an invalid configuration. -/
theorem step_of_invalid {s : State} (hv : s.cfg.valid = false) : step s = .refused .invalidConfig := by
  simp [step, State.blockStep, hv]

/-- Settles O41: each check says its condition of R7, and the step asks for their conjunction before anything else. -/
theorem invalidConfigRefused : Obligations.InvalidConfigRefused := by
  unfold Obligations.InvalidConfigRefused
  refine ⟨fun cfg => ?_, fun s hv => step_of_invalid hv, rfl, rfl⟩
  simpa only [Config.lines, and_assoc] using cfg.valid_iff

end Sys2Proof.Machine
end

section
/-! PROOF. The command words: the channel a command names, and that its word decodes to it again (R81 to R88). -/

namespace Sys2Proof

/-- The channel a command names; an event names none (R83, R91). -/
def Instr.chan? : Instr → Option Chan
  | .bindOut c _ _ => some c
  | .bindTri c _ _ => some c
  | .bindIn c _ _ _ => some c
  | .write c _ => some c
  | .triWrite c _ => some c
  | .read c => some c
  | .tick => none
  | .edge => none

/-- R81: the two lowest bits of a word are its `arg`. -/
theorem getElem_assemble_of_lt_two (op ch : BitVec 3) (port : BitVec 4) (idx : BitVec 3) (al : Bool) (arg : BitVec 2) {j : Nat}
    {h : j < 16} (hj : j < 2) : (assemble op ch port idx al arg)[j] = arg[j] := by
  rw [← BitVec.getLsbD_eq_getElem, getLsbD_assemble]
  interval_cases j <;> simp

/-- R84: where a word has no pin and no polarity, and its `arg` no bit from `k` on, the bits from `k` to the channel are zero. -/
theorem extractLsb'_assemble_eq_zero (op ch : BitVec 3) {arg : BitVec 2} {k n : Nat} (hn : k + n ≤ 10)
    (h : arg.toNat < 2 ^ k) : (assemble op ch 0#4 0#3 false arg).extractLsb' k n = 0#n := by
  refine BitVec.eq_of_getLsbD_eq fun j hj => ?_
  have harg : arg.getLsbD (k + j) = false :=
    Nat.testBit_lt_two_pow (h.trans_le (Nat.pow_le_pow_right (by decide) (Nat.le_add_right k j)))
  have h13 : ¬ 13 ≤ k + j := by omega
  have h10 : ¬ 10 ≤ k + j := by omega
  simp [getLsbD_assemble, h13, h10, harg]

/-- R81 to R88: the word of a command decodes to the command. -/
theorem decodeWord_word {i : Instr} {c : Chan} (hi : i.chan? = some c) : decodeWord i.word = .ok i := by
  cases i with
  | bindOut d q al => simp [Instr.word, encode, decodeWord, pinField]
  | bindTri d q al => simp [Instr.word, encode, decodeWord, pinField]
  | bindIn d q al pu =>
    cases pu <;> simp [Instr.word, encode, decodeWord, pinField, getElem_assemble_of_lt_two]
  | write d level =>
    cases level <;>
      simp [Instr.word, encode, decodeWord, getElem_assemble_of_lt_two, extractLsb'_assemble_eq_zero]
  | triWrite d lvl =>
    cases lvl <;> simp [Instr.word, encode, decodeWord, argOfLevel, levelOfArg, extractLsb'_assemble_eq_zero]
  | read d => simp [Instr.word, encode, decodeWord, extractLsb'_assemble_eq_zero]
  | tick => cases hi
  | edge => cases hi

/-- Two commands with one word are one command (R88). -/
theorem word_inj {i j : Instr} {c d : Chan} (hi : i.chan? = some c) (hj : j.chan? = some d) :
    i.word = j.word ↔ i = j :=
  ⟨fun h => by simpa [decodeWord_word hj, eq_comm] using (decodeWord_word hi).symm.trans (congrArg decodeWord h), congrArg _⟩

/-- R88: a word decodes to commands alone. -/
theorem chan?_of_decodeWord {w : CmdWord} {i : Instr} (h : decodeWord w = .ok i) : ∃ c, i.chan? = some c := by
  unfold decodeWord at h
  repeat' split at h
  all_goals cases h <;> exact ⟨_, rfl⟩

end Sys2Proof
end

section
/-! PROOF. What each move leaves alone: the state after as the state before with the listed fields changed, so that any other field
is read off by `rw`; and the faults it may raise (R201). -/

namespace Sys2Proof.Machine

/-- A sample counts a draw and changes nothing else (R65). -/
theorem sample_frame (s : State) (q : Pin) : (s.sample q).2 = { s with draws := (s.sample q).2.draws } := by
  unfold State.sample; split <;> rfl

/-- R103: the bind check answers a fault code. -/
theorem bindchk_ne {s : State} {c : Chan} {q : Pin} {k : FaultCode} (h : s.bindchk c q = some k) : k ≠ .none := by
  unfold State.bindchk at h
  repeat' split at h
  all_goals cases h <;> decide

/-- R101: so does the channel check. -/
theorem chk_error_ne {s : State} {c : Chan} {k : Kind} {f : CmdFault} (h : s.chk c k = .error f) : f.code ≠ .none := by
  obtain ⟨-, rfl⟩ | ⟨b, -, -, rfl⟩ := (chk_error_iff s c k f).1 h <;> exact nofun

/-- R101, R118: and reading a channel. -/
theorem readChannel_error_ne {s : State} {c : Chan} {f : CmdFault} (h : s.readChannel c = .error f) : f.code ≠ .none := by
  unfold State.readChannel at h
  split at h
  · rename_i hc; cases h; exact chk_error_ne hc
  · cases h

/-- R88: and the decoder. -/
theorem ofDecode_ne (f : DecodeFault) : FaultCode.ofDecode f ≠ .none := by
  cases f <;> decide

/-- R28: a bind binds a free channel and keeps every binding. -/
theorem chanOf_setChan_of_bound {s : State} {c : Chan} (hc : s.chanOf c = none) (b : Binding) (d : Chan) (b' : Binding)
    (hd : s.chanOf d = some b') : (s.setChan c b).chanOf d = some b' := by
  rw [chanOf_setChan, if_neg, hd]
  rintro rfl; rw [hc] at hd; cases hd

/-- R100, R201: a command's micro-step raises a fault, or changes at most the mux registers, `cip`, `rd_LOOP` and the count of draws,
and keeps every binding (R28). -/
theorem exec_frame {i : Instr} {c : Chan} {s t : State} (hi : i.chan? = some c) (h : exec i s = .next t) :
    (∃ k q, k ≠ .none ∧ t = { s with fault := k, faultWord := i.word, faultPin := q }) ∨
    (t = { s with
        dir := t.dir, out := t.out, chan := t.chan, triLast := t.triLast, cip := t.cip, rdLoop := t.rdLoop, draws := t.draws } ∧
      ∀ d b, s.chanOf d = some b → t.chanOf d = some b) := by
  cases i with
  | bindOut d q al =>
    obtain ⟨hf, ⟨_, k, -, hk, rfl⟩ | ⟨_, -, hb, rfl⟩ | ⟨_, -, rfl⟩⟩ := execBindOut_next h
    · exact .inl ⟨k, _, bindchk_ne hk, raise_of_no_fault hf ..⟩
    · exact .inr ⟨rfl, chanOf_setChan_of_bound ((bindchk_none_iff ..).1 hb).1 _⟩
    · exact .inr ⟨rfl, fun _ _ => id⟩
  | bindTri d q al =>
    obtain ⟨hf, ⟨_, k, -, hk, rfl⟩ | ⟨_, -, hb, rfl⟩ | ⟨_, -, rfl⟩⟩ := execBindTri_next h
    · exact .inl ⟨k, _, bindchk_ne hk, raise_of_no_fault hf ..⟩
    · exact .inr ⟨rfl, chanOf_setChan_of_bound ((bindchk_none_iff ..).1 hb).1 _⟩
    · exact .inr ⟨rfl, fun _ _ => id⟩
  | bindIn d q al pu =>
    obtain ⟨hf, ⟨_, k, -, hk, rfl⟩ | ⟨_, -, hb, rfl⟩ | ⟨_, -, rfl⟩ | ⟨_, -, -, rfl⟩ | ⟨_, -, -, rfl⟩⟩ := execBindIn_next h
    · exact .inl ⟨k, _, bindchk_ne hk, raise_of_no_fault hf ..⟩
    · exact .inr ⟨rfl, chanOf_setChan_of_bound ((bindchk_none_iff ..).1 hb).1 _⟩
    all_goals exact .inr ⟨rfl, fun _ _ => id⟩
  | write d level =>
    obtain ⟨hf, ⟨_, f, -, hk, rfl⟩ | ⟨_, b, -, -, rfl⟩ | ⟨_, b, -, -, rfl⟩⟩ := execWrite_next h
    · exact .inl ⟨_, _, chk_error_ne hk, raise_of_no_fault hf ..⟩
    all_goals exact .inr ⟨rfl, fun _ _ => id⟩
  | triWrite d lvl =>
    obtain ⟨hf, ⟨_, f, -, hk, rfl⟩ | ⟨_, b, -, -, rfl⟩ | ⟨_, b, -, -, rfl⟩ | ⟨_, b, -, -, rfl⟩ | ⟨_, b, -, -, rfl⟩⟩ :=
      execTriWrite_next h
    · exact .inl ⟨_, _, chk_error_ne hk, raise_of_no_fault hf ..⟩
    all_goals exact .inr ⟨rfl, fun _ _ => id⟩
  | read d =>
    obtain ⟨hf, ⟨_, f, -, hk, rfl⟩ | ⟨_, v, -, hv, rfl⟩⟩ := execRead_next h
    · exact .inl ⟨_, _, readChannel_error_ne hk, raise_of_no_fault hf ..⟩
    · obtain ⟨b, -, -, rfl⟩ := (readChannel_ok_iff s d v).1 hv
      refine .inr ⟨?_, fun d b => ?_⟩
      · rw [sample_frame]
      · simp [chanOf_congr (s := s)]
  | tick => cases hi
  | edge => cases hi

/-- What a phase that is one atomic step may do (R162): it enables the interrupts at `BOOT5`, only moves on, begins a wait, clears the
latch, arms the countdown, or ends the poll. -/
theorem phaseStep_next {s t : State} (h : s.phaseStep = .next t) :
    (s.lp = .boot5 ∧ t = s.enableInterrupts) ∨
    (∃ ph, t = s.goto ph) ∨
    (∃ d ph, t = s.enterWait d ph) ∨
    (∃ ph, t = s.clearPress ph) ∨
    (∃ ticks ph on, (ticks = s.cfg.powerOnTime ∨ ticks = s.cfg.pendingOffTicks) ∧ t = { s.arm ticks ph with on := on }) ∨
    (∃ on, t = { s with on := on, polled := true, lp := .s0 }) := by
  cases hlp : s.lp <;> simp only [State.phaseStep, hlp, reduceCtorEq, Host.Outcome.next.injEq] at h
  case boot5 => exact .inl ⟨rfl, h.symm⟩
  case s0 | s1 | a3x | a5w | b3w | b5w | b6 | b9w | z3x => exact .inr (.inl ⟨_, h.symm⟩)
  case a5 | b3 | b5 | b9 => exact .inr (.inr (.inl ⟨_, _, h.symm⟩))
  case a6 | b4 | b10 => exact .inr (.inr (.inr (.inl ⟨_, h.symm⟩)))
  case b2 => exact .inr (.inr (.inr (.inr (.inl ⟨_, _, s.on, .inr rfl, h.symm⟩))))
  case b8 => exact .inr (.inr (.inr (.inr (.inl ⟨_, _, s.on, .inl rfl, h.symm⟩))))
  case a4 => exact .inr (.inr (.inr (.inr (.inl ⟨_, .a5, true, .inl rfl, h.symm⟩))))
  case z4 => exact .inr (.inr (.inr (.inr (.inr ⟨false, h.symm⟩))))
  case z0 =>
    unfold State.zeroCheck at h
    split at h
    · exact .inr (.inl ⟨_, h.symm⟩)
    · exact .inr (.inr (.inr (.inr (.inr ⟨s.on, h.symm⟩))))

/-- What LOOP leaves alone in one step, field by field (R48): each clause is one element's rule of ownership as far as LOOP goes. -/
structure LoopKeeps (s t : State) : Prop where
  cfg : t.cfg = s.cfg
  ext : t.ext = s.ext
  rdEdge : t.rdEdge = s.rdEdge
  tickPending : t.tickPending = s.tickPending
  edgePending : t.edgePending = s.edgePending
  now : t.now = s.now
  nextTick : t.nextTick = s.nextTick
  pressed : t.pressed = true → s.pressed = true
  polled : s.polled = true → t.polled = true
  countdown : t.countdown = s.countdown ∨ t.countdown = armValue s.cfg.powerOnTime ∨
    t.countdown = armValue s.cfg.pendingOffTicks
  ien : s.ien = true → t.ien = true
  events : s.lp ≠ .boot5 → t.ien = s.ien ∧ t.btnLast = s.btnLast
  bindings : ∀ c b, s.chanOf c = some b → t.chanOf c = some b
  record : t.fault = .none → t.faultWord = s.faultWord ∧ t.faultPin = s.faultPin

/-- A fault keeps to LOOP's rules. -/
theorem loopKeeps_fault {k : FaultCode} (hk : k ≠ .none) (s : State) (w : CmdWord) (q : Option Pin) :
    LoopKeeps s { s with fault := k, faultWord := w, faultPin := q } := by
  constructor <;> simp [hk, State.chanOf]

/-- So does a command's micro-step, and the move to the next phase. -/
theorem loopKeeps_exec {i : Instr} {c : Chan} {s u : State} (hi : i.chan? = some c) (h : exec i s = .next u) :
    LoopKeeps s u.afterMicroStep := by
  suffices ∀ ph, LoopKeeps s { u with lp := ph } by
    obtain h | ⟨-, -, h⟩ := afterMicroStep_eq u <;> rw [h] <;> exact this _
  intro ph
  obtain ⟨k, q, hk, rfl⟩ | ⟨hu, hb⟩ := exec_frame hi h
  · constructor <;> simp [hk, State.chanOf]
  · constructor
    case bindings => exact hb
    all_goals rw [hu]
    all_goals simp

/-- And each phase that is one atomic step. -/
theorem loopKeeps_phaseStep {s t : State} (h : s.phaseStep = .next t) : LoopKeeps s t := by
  obtain ⟨h5, rfl⟩ | ⟨ph, rfl⟩ | ⟨d, ph, rfl⟩ | ⟨ph, rfl⟩ | ⟨n, ph, on, hn, rfl⟩ | ⟨on, rfl⟩ := phaseStep_next h
  · unfold State.enableInterrupts
    dsimp only
    rw [sample_frame]
    constructor <;> simp [h5, State.chanOf]
  · constructor <;> simp
  · constructor <;> simp [State.enterWait, State.chanOf]
  · constructor <;> simp [State.clearPress, State.chanOf]
  · have hc := hn.imp (congrArg armValue) (congrArg armValue)
    constructor <;> simp [State.arm, State.chanOf, hc]
  · constructor <;> simp [State.chanOf]

/-- R48: every step of LOOP keeps to its rules. -/
theorem loopKeeps {s t : State} (h : s.loopStep = .next t) : LoopKeeps s t := by
  obtain ⟨he, ⟨w, f, -, -, rfl⟩ | ⟨w, i, u, -, hd, hx, rfl⟩ | ⟨-, hx⟩⟩ := loopStep_next h
  · rw [raise_of_no_fault (fault_of_loopEnabled he)]
    exact loopKeeps_fault (ofDecode_ne f) ..
  · exact loopKeeps_exec (chan?_of_decodeWord hd).choose_spec hx
  · exact loopKeeps_phaseStep hx

/-- The edge detector counts at most one change of the button's level, and only while interrupts are enabled (R145). -/
theorem edgeDetect_cases (s : State) :
    ∃ n v d, s.edgeDetect = { s with edgePending := n, btnLast := v, draws := d } ∧
      (n = s.edgePending ∧ v = s.btnLast ∨ s.ien = true ∧ n = s.edgePending + 1) := by
  simp only [State.edgeDetect]
  split
  · rename_i hi
    rw [sample_frame]
    split
    · exact ⟨_, _, _, rfl, .inl ⟨rfl, rfl⟩⟩
    · exact ⟨_, _, _, rfl, .inr ⟨hi, rfl⟩⟩
  · exact ⟨_, _, _, rfl, .inl ⟨rfl, rfl⟩⟩

/-- What the epilogue may change (R204): it counts at most one edge, and that without a fault and while interrupts are enabled; the
only fault it raises is contention, and it writes the fault record only with it (R52, R121). -/
theorem epilogue_frame (s : State) :
    ∃ n v d k w q,
      s.epilogue = { s with edgePending := n, btnLast := v, draws := d, fault := k, faultWord := w, faultPin := q } ∧
      (n = s.edgePending ∧ v = s.btnLast ∨ s.fault = .none ∧ s.ien = true ∧ n = s.edgePending + 1) ∧
      (k = .contention ∨ k = s.fault ∧ w = s.faultWord ∧ q = s.faultPin) := by
  obtain ⟨-, h⟩ | ⟨-, q, -, h⟩ | ⟨hf, -, h⟩ := epilogue_cases s
  · exact ⟨_, _, _, _, _, _, h, .inl ⟨rfl, rfl⟩, .inr ⟨rfl, rfl, rfl⟩⟩
  · exact ⟨_, _, _, _, _, _, h, .inl ⟨rfl, rfl⟩, .inl rfl⟩
  · obtain ⟨n, v, d, hd, hev⟩ := edgeDetect_cases s
    exact ⟨n, v, d, _, _, _, h.trans hd, hev.imp_right fun h => ⟨hf, h⟩, .inr ⟨rfl, rfl, rfl⟩⟩

/-- A step is its move's action from the same state but for the choice used up, and then the epilogue. -/
theorem step_act {s t : State} (h : step s = .next t) :
    ∃ m ms n u, s.taken = some m ∧ State.act { s with sched := ms, picks := n } m = .next u ∧ t = u.epilogue := by
  obtain ⟨-, -, m, u, hm, -, ha, rfl⟩ := step_next h
  exact ⟨m, _, _, u, hm, wanted_snd s ▸ ha, rfl⟩

/-- Time advances by one, with no event pending before; a tick is recorded only while interrupts are enabled (R186, R39). -/
theorem advanceStep_next {s t : State} (h : s.advanceStep = .next t) :
    s.tickPending = false ∧ s.edgePending = 0 ∧ (t.tickPending = true → s.ien = true) ∧
      t = { s with now := s.now + 1, polled := false, nextTick := t.nextTick, tickPending := t.tickPending } := by
  unfold State.advanceStep at h
  split at h
  · rename_i he
    cases h
    simp only [State.advanceEnabled, Bool.and_eq_true, Bool.not_eq_true', decide_eq_true_eq] at he
    obtain ⟨⟨⟨-, htp⟩, hep⟩, -⟩ := he
    refine ⟨htp, hep, ?_, ?_⟩ <;> unfold State.tickOver <;> split <;> simp [htp]
  · cases h

/-- R190: `SetExt` changes the drives alone. -/
theorem setExtStep_next {s t : State} {q : Pin} {e : Drive} (h : s.setExtStep q e = .next t) : t = { s with ext := t.ext } := by
  unfold State.setExtStep at h
  split at h <;> cases h
  rfl

/-- EDGE raises the fault of its READ, or takes one edge, writes `rd_EDGE`, and may set the latch (R146). -/
theorem edge_frame {s t : State} (h : execEdge s = .next t) :
    0 < s.edgePending ∧
      ((∃ k w q, k ≠ .none ∧ t = { s with fault := k, faultWord := w, faultPin := q }) ∨
       (s.pressed = true → t.pressed = true) ∧
        t = { s with pressed := t.pressed, rdEdge := t.rdEdge, edgePending := s.edgePending - 1, draws := t.draws }) := by
  obtain ⟨hf, hp, ⟨f, hr, rfl⟩ | ⟨v, hv, rfl⟩⟩ := execEdge_next h
  · exact ⟨hp, .inl ⟨_, _, _, readChannel_error_ne hr, raise_of_no_fault hf ..⟩⟩
  · obtain ⟨b, -, -, rfl⟩ := (readChannel_ok_iff s _ v).1 hv
    refine ⟨hp, .inr ⟨?_, ?_⟩⟩
    · intro h; simp [State.latchPress, h]
    · unfold State.latchPress; dsimp only; rw [sample_frame]

/-- Two states with one configuration, the same mux registers and the same command in progress (R22 to R35). -/
structure SameMux (s t : State) : Prop where
  cfg : t.cfg = s.cfg
  dir : t.dir = s.dir
  out : t.out = s.out
  chan : t.chan = s.chan
  triLast : t.triLast = s.triLast
  cip : t.cip = s.cip

/-- A phase that is one atomic step leaves the mux alone. -/
theorem sameMux_phaseStep {s t : State} (h : s.phaseStep = .next t) : SameMux s t := by
  obtain ⟨-, rfl⟩ | ⟨ph, rfl⟩ | ⟨d, ph, rfl⟩ | ⟨ph, rfl⟩ | ⟨n, ph, on, -, rfl⟩ | ⟨on, rfl⟩ := phaseStep_next h
  · unfold State.enableInterrupts
    dsimp only
    rw [sample_frame]
    constructor <;> rfl
  all_goals constructor <;> rfl

/-- The epilogue leaves the mux alone. -/
theorem sameMux_epilogue (s : State) : SameMux s s.epilogue := by
  constructor <;> simp

/-- TICK, EDGE and ENV leave the mux alone, and `lp`, `on` and `ien` too (R48). -/
theorem act_of_ne_loop {s t : State} {m : Move} (hm : m ≠ .loop) (h : s.act m = .next t) :
    SameMux s t ∧ t.lp = s.lp ∧ t.on = s.on ∧ t.ien = s.ien := by
  cases m with
  | tick =>
    obtain ⟨-, -, rfl⟩ := execTick_next h
    exact ⟨⟨rfl, rfl, rfl, rfl, rfl, rfl⟩, rfl, rfl, rfl⟩
  | edge =>
    obtain ⟨-, ⟨k, w, q, -, rfl⟩ | ⟨-, ht⟩⟩ := edge_frame h
    · exact ⟨⟨rfl, rfl, rfl, rfl, rfl, rfl⟩, rfl, rfl, rfl⟩
    · rw [ht]
      exact ⟨⟨rfl, rfl, rfl, rfl, rfl, rfl⟩, rfl, rfl, rfl⟩
  | loop => exact absurd rfl hm
  | advance =>
    obtain ⟨-, -, -, ht⟩ := advanceStep_next h
    rw [ht]
    exact ⟨⟨rfl, rfl, rfl, rfl, rfl, rfl⟩, rfl, rfl, rfl⟩
  | setExt q e =>
    rw [setExtStep_next h]
    exact ⟨⟨rfl, rfl, rfl, rfl, rfl, rfl⟩, rfl, rfl, rfl⟩

end Sys2Proof.Machine
end

section
/-! PROOF. The rules of ownership (R48), the fixed configuration and bindings (R46, R28), and the event and fault records (R39, R52):
each move by what it leaves alone, then the epilogue. -/

namespace Sys2Proof.Machine

/-- R142: the decrement, as a number, stops at 0. -/
theorem decrement_toNat (n : CountReg) : (decrement n).toNat = n.toNat - 1 := by
  unfold decrement
  split <;> bv_omega

/-- Settles O51, move by move: what a move changes is said by its own lemma, and what the step adds is the epilogue's count of one edge and
its fault. -/
theorem onlyTheOwnerWrites : Obligations.OnlyTheOwnerWrites := by
  unfold Obligations.OnlyTheOwnerWrites
  intro s t m h hm
  have hf := (step_next h).2.1
  obtain ⟨m', ms, n, u, hm', hx, rfl⟩ := step_act h
  obtain rfl : m' = m := Option.some.inj (hm'.symm.trans hm)
  obtain ⟨e, v, d, k, w, q, he, hev, hk⟩ := epilogue_frame u
  rw [he]
  clear h hm hm' he
  cases m' with
  | tick =>
    obtain ⟨-, -, rfl⟩ := execTick_next hx
    grind [decrement_toNat]
  | edge =>
    obtain ⟨hp, ⟨k, w, q, hne, rfl⟩ | ⟨hpr, hu⟩⟩ := edge_frame hx
    · grind
    · rw [hu] at hev hk ⊢
      grind
  | loop =>
    have hu := loopKeeps hx
    grind [LoopKeeps, armValue]
  | advance =>
    obtain ⟨htp, hep, -, hu⟩ := advanceStep_next hx
    rw [hu] at hev hk ⊢
    grind
  | setExt q e =>
    rw [setExtStep_next hx] at hev hk ⊢
    grind

/-- The fault record is written only with a fault, so it stays empty while there is none (R52). -/
theorem step_keeps_faultInv {s t : State} (hs : s.faultInv) (h : step s = .next t) : t.faultInv := by
  obtain ⟨-, hf, m, -, hm, -⟩ := step_next h
  obtain ⟨-, -, -, -, -, -, -, -, -, -, -, -, -, -, -, -, -, -, hrec⟩ := onlyTheOwnerWrites s t m h hm
  intro ht
  rw [(hrec ht).1, (hrec ht).2]
  exact hs hf

/-- While interrupts are not enabled no move records an event: TICK and EDGE need one, the time advance and the edge detector ask for
`ien`, and LOOP records none (R39). -/
theorem step_keeps_ienInv {s t : State} (hs : s.ienInv) (h : step s = .next t) : t.ienInv := by
  obtain ⟨m, ms, n, u, -, hx, rfl⟩ := step_act h
  obtain ⟨e, v, d, k, w, q, he, hev, -⟩ := epilogue_frame u
  rw [he]
  unfold State.ienInv at hs ⊢
  suffices hu : u.ien = false → u.tickPending = false ∧ u.edgePending = 0 by grind
  cases m with
  | tick =>
    obtain ⟨-, -, rfl⟩ := execTick_next hx
    exact fun hi => ⟨rfl, (hs hi).2⟩
  | edge =>
    obtain ⟨hp, ⟨k, w, q, hne, rfl⟩ | ⟨hpr, hu⟩⟩ := edge_frame hx
    · exact hs
    · rw [hu]
      grind
  | loop =>
    have hu := loopKeeps hx
    grind [LoopKeeps]
  | advance =>
    obtain ⟨htp, hep, hi, hu⟩ := advanceStep_next hx
    rw [hu] at hi ⊢
    grind
  | setExt q e =>
    rw [setExtStep_next hx]
    exact hs

/-- Settles O47: R39 and R52 are kept by every step. -/
theorem eventAndFaultRecordsKept : Obligations.EventAndFaultRecordsKept := by
  unfold Obligations.EventAndFaultRecordsKept
  exact fun s t hs h => ⟨step_keeps_ienInv hs.1 h, step_keeps_faultInv hs.2 h⟩

/-- Settles O52: LOOP's steps have it among their rules, and no other move writes any of the three. -/
theorem configAndBindingsFixed : Obligations.ConfigAndBindingsFixed := by
  unfold Obligations.ConfigAndBindingsFixed
  intro s t h
  obtain ⟨m, ms, n, u, -, hx, rfl⟩ := step_act h
  rw [State.epilogue_cfg, State.epilogue_ien]
  simp only [chanOf_congr (State.epilogue_chan u)]
  by_cases hm : m = .loop
  · subst hm
    have hu := loopKeeps hx
    exact ⟨hu.cfg, hu.bindings, hu.ien⟩
  · obtain ⟨hu, -, -, hi⟩ := act_of_ne_loop hm hx
    exact ⟨hu.cfg, fun c b hb => (chanOf_congr hu.chan c).trans hb, fun h => hi.trans h⟩

end Sys2Proof.Machine
end

section
/-! PROOF. The mux invariant (R27, R28, R35, R117): what it says at a command's micro-step, and that every micro-step keeps it. -/

namespace Sys2Proof.Machine

/-- The direction invariant of one channel, with no exception (R117). -/
def State.directionAt (s : State) (c : Chan) : Prop :=
  ∀ b ∈ s.chanOf c, b.kind = .tri → (s.dirBit b.pin = true ↔ s.triOf c ≠ .highZ)

section MuxInvariant

variable {s t : State} {i : Instr} {c d : Chan} {b : Binding} {k : Nat} {r : PortReg}

/-- A micro-step in progress is after the first. -/
theorem microOk_pos (h : s.microOk i k r) : k ≠ 0 := by
  rintro rfl
  cases i <;> simp [State.microOk] at h

/-- The pending read does not depend on `cip`. -/
@[simp] theorem microOk_setCip (v : Cip) : (s.setCip v).microOk i k r ↔ s.microOk i k r := by
  cases i <;> rfl

/-- R35: where the command in progress has the word of `i`, it is `i`. -/
theorem microOk_of_busy (hi : i.chan? = some c) (hs : s.cipOk) (h : s.cip = .busy i.word k r) : s.microOk i k r := by
  unfold State.cipOk at hs
  rw [h] at hs
  obtain ⟨j, hj, hm⟩ := hs
  rw [decodeWord_word hi] at hj
  cases hj
  exact hm

/-- A command at micro-step 0 has not begun. -/
theorem idle_of_microStep_zero (hi : i.chan? = some c) (hs : s.cipOk) (h : s.microStep i.word = some (0, r)) : s.cip = .idle := by
  obtain ⟨h, -⟩ | h := microStep_eq_some.1 h
  · exact h
  · exact absurd rfl (microOk_pos (microOk_of_busy hi hs h))

/-- A command at a later micro-step is in progress, its pending read not stale. -/
theorem microOk_of_microStep_succ (hi : i.chan? = some c) (hs : s.cipOk) (h : s.microStep i.word = some (k + 1, r)) :
    s.cip = .busy i.word (k + 1) r ∧ s.microOk i (k + 1) r := by
  obtain ⟨-, h, -⟩ | h := microStep_eq_some.1 h
  · cases h
  · exact ⟨h, microOk_of_busy hi hs h⟩

/-- With no command in progress the direction invariant has no exception. -/
theorem directionAt_of_idle (hs : s.directionOk) (h : s.cip = .idle) (c : Chan) : s.directionAt c :=
  fun b hb hk => hs c b hb hk (by simp [State.bindTriOpen, h])

/-- Nor has it one for a channel whose BIND.TRI is not the command in progress. -/
theorem directionAt_of_busy (hi : i.chan? = some d) (hs : s.directionOk) (h : s.cip = .busy i.word k r)
    (hc : ∀ q al, i ≠ .bindTri c q al) : s.directionAt c := by
  intro b hb hk
  refine hs c b hb hk ?_
  have : i.word ≠ (Instr.bindTri c b.pin b.al).word := fun hw => hc _ _ ((word_inj hi rfl).1 hw)
  simp [State.bindTriOpen, h, this]

/-- Other channels' bits are other bits (R28), so the direction invariant of a channel survives a write of another's direction bit. -/
theorem directionAt_setDir (hs : s.chanOk) (hb : s.chanOf c = some b) (hne : d ≠ c) (hd : s.directionAt d) (v : Bool) :
    (s.setDir b.pin.port (setBit (s.dirOf b.pin.port) b.pin.idx v)).directionAt d := by
  intro b' hb' hk
  have hpin : b'.pin ≠ b.pin := (hs c b hb).2 d hne b' hb'
  rw [dirBit_setDir_setBit, if_neg hpin]
  exact hd b' hb' hk

/-- A channel of another kind has no direction invariant. -/
theorem directionAt_of_kind (hb : s.chanOf c = some b) (hk : b.kind ≠ .tri) : s.directionAt c := by
  intro b' hb' hk'
  cases hb.symm.trans hb'
  exact absurd hk' hk

/-- R28, R103: a bind that passes its check keeps the channel table's invariant. -/
theorem chanOk_setChan (hs : s.chanOk) (hb : s.bindchk c b.pin = none) : (s.setChan c b).chanOk := by
  obtain ⟨hc, hp, ho⟩ := (bindchk_none_iff ..).1 hb
  intro d b₁ h₁
  rw [chanOf_setChan] at h₁
  split at h₁
  · cases h₁
    refine ⟨hp, fun d' hne b₂ h₂ => ?_⟩
    rw [chanOf_setChan, if_neg (by simp_all)] at h₂
    exact ho d' (by simp_all) b₂ h₂
  · rename_i hd
    refine ⟨(hs d b₁ h₁).1, fun d' hne b₂ h₂ => ?_⟩
    rw [chanOf_setChan] at h₂
    split at h₂
    · cases h₂; exact (ho d hd b₁ h₁).symm
    · exact (hs d b₁ h₁).2 d' hne b₂ h₂

/-- The mux invariant when a command is complete. -/
theorem muxInv_of_idle (hc : t.chanOk) (h : t.cip = .idle) (hd : ∀ c, t.directionAt c) : t.muxInv :=
  ⟨hc, by simp [State.cipOk, h], fun c b hb hk _ => hd c b hb hk⟩

/-- The mux invariant in the middle of a command. -/
theorem muxInv_of_busy (hi : i.chan? = some c) (hc : t.chanOk) (h : t.cip = .busy i.word k r) (hm : t.microOk i k r)
    (hd : ∀ c, t.directionAt c) : t.muxInv :=
  ⟨hc, by simpa [State.cipOk, h] using ⟨i, decodeWord_word hi, hm⟩, fun c b hb hk _ => hd c b hb hk⟩

/-- The mux invariant is about the mux registers, the channel table and `cip` alone. -/
theorem muxInv_congr (h : SameMux s t) (hs : s.muxInv) : t.muxInv := by
  obtain ⟨hcfg, hdir, hout, hchan, htri, hcip⟩ := h
  cases s
  cases t
  cases hcfg; cases hdir; cases hout; cases hchan; cases htri; cases hcip
  exact hs

/-- A fault changes nothing the mux invariant speaks of (R201). -/
theorem muxInv_raise (hs : s.muxInv) (code : FaultCode) (w : CmdWord) (q : Option Pin) : (s.raise code w q).muxInv := by
  refine muxInv_congr ?_ hs
  constructor <;> simp

/-- A micro-step that only moves `cip` on to another one keeps the mux invariant, if what that one needs holds. -/
theorem muxInv_setCip (hi : i.chan? = some c) (hs : s.chanOk) (hd : ∀ d, s.directionAt d) (hm : s.microOk i k r) :
    (s.setCip (.busy i.word k r)).muxInv :=
  muxInv_of_busy hi hs rfl ((microOk_setCip _).2 hm) hd

/-- A bind leaves the direction invariant of the other channels as it was. -/
theorem directionAt_bindStart (hd : d ≠ c) (h : s.directionAt d) (w : CmdWord) : (s.bindStart w c b).directionAt d := by
  intro b' hb'
  simp only [State.bindStart, chanOf_setCip, chanOf_setChan, if_neg hd] at hb'
  exact h b' hb'

/-- The channel a bind has just bound. -/
theorem chanOf_bindStart (s : State) (w : CmdWord) (c : Chan) (b : Binding) : (s.bindStart w c b).chanOf c = some b := by
  simp [State.bindStart, chanOf_setChan]

/-- The start of BIND.OUT and BIND.IN keeps the mux invariant. -/
theorem muxInv_bindStart (hi : i.chan? = some c) (hs : s.muxInv) (hcip : s.cip = .idle) (hb : s.bindchk c b.pin = none)
    (hm : (s.bindStart i.word c b).microOk i 1 (s.dirOf b.pin.port)) (hk : b.kind ≠ .tri) :
    (s.bindStart i.word c b).muxInv := by
  obtain ⟨hchan, -, hdir⟩ := hs
  refine muxInv_of_busy hi (chanOk_setChan hchan hb) rfl hm fun d => ?_
  by_cases hd : d = c
  · subst hd; exact directionAt_of_kind (chanOf_bindStart ..) hk
  · exact directionAt_bindStart hd (directionAt_of_idle hdir hcip d) _

/-- After `c`'s direction bit and `triLast` are written together they agree, if the values written do. -/
theorem directionAt_setTri_setDir (hb : s.chanOf c = some b) {v : Bool} {l : TriLast} (hv : v = true ↔ l ≠ .highZ) :
    ((s.setDir b.pin.port (setBit (s.dirOf b.pin.port) b.pin.idx v)).setTri c l).directionAt c := by
  intro b' hb' _
  cases hb.symm.trans hb'
  simpa [triOf_setTri, dirBit_setDir_setBit] using hv

theorem execBindOut_keeps_muxInv {q : Pin} {al : Bool} (hs : s.muxInv) (h : execBindOut c q al s = .next t) : t.muxInv := by
  have hi : (Instr.bindOut c q al).chan? = some c := rfl
  have ⟨hchan, hcip, hdir⟩ := hs
  obtain ⟨-, ⟨r, code, -, -, rfl⟩ | ⟨r, hm, hb, rfl⟩ | ⟨r, hm, rfl⟩⟩ := execBindOut_next h
  · exact muxInv_raise hs ..
  · exact muxInv_bindStart hi hs (idle_of_microStep_zero hi hcip hm) hb ⟨rfl, chanOf_bindStart .., rfl⟩ nofun
  · obtain ⟨hbusy, -, hc, rfl⟩ := microOk_of_microStep_succ hi hcip hm
    refine muxInv_of_idle hchan rfl fun d => ?_
    by_cases hd : d = c
    · subst hd; exact directionAt_of_kind hc nofun
    · exact directionAt_setDir hchan hc hd (directionAt_of_busy hi hdir hbusy nofun) true

/-- BIND.TRI's start: its own channel is the exception of R117 until the second micro-step (entry 19), the others are as they were. -/
theorem muxInv_bindTriStart {q : Pin} {al : Bool} (hs : s.muxInv) (hcip : s.cip = .idle) (hb : s.bindchk c q = none) :
    ((s.bindStart (Instr.bindTri c q al).word c ⟨.tri, q, al, false⟩).setTri c .none).muxInv := by
  obtain ⟨hchan, -, hdir⟩ := hs
  have hc : ((s.bindStart (Instr.bindTri c q al).word c ⟨.tri, q, al, false⟩).setTri c .none).chanOf c =
    some ⟨.tri, q, al, false⟩ := by simp [chanOf_bindStart]
  refine ⟨chanOk_setChan hchan hb, ⟨_, decodeWord_word rfl, rfl, hc, by simp [triOf_setTri], rfl⟩, fun d b hd hk hopen => ?_⟩
  by_cases hne : d = c
  · subst hne
    cases hc.symm.trans hd
    simp [State.bindTriOpen, State.bindStart, State.setCip, State.setTri] at hopen
  · have := directionAt_bindStart (b := ⟨.tri, q, al, false⟩) hne (directionAt_of_idle hdir hcip d) (Instr.bindTri c q al).word
    simpa [triOf_setTri, hne] using this b hd hk

/-- BIND.TRI's second micro-step drives the pin, and `triLast` is NONE. -/
theorem execBindTri_keeps_muxInv {q : Pin} {al : Bool} (hs : s.muxInv) (h : execBindTri c q al s = .next t) : t.muxInv := by
  have hi : (Instr.bindTri c q al).chan? = some c := rfl
  have ⟨hchan, hcip, hdir⟩ := hs
  obtain ⟨-, ⟨r, code, -, -, rfl⟩ | ⟨r, hm, hb, rfl⟩ | ⟨r, hm, rfl⟩⟩ := execBindTri_next h
  · exact muxInv_raise hs ..
  · exact muxInv_bindTriStart hs (idle_of_microStep_zero hi hcip hm) hb
  · obtain ⟨hbusy, -, hc, ht, rfl⟩ := microOk_of_microStep_succ hi hcip hm
    refine muxInv_of_idle hchan rfl fun d => ?_
    by_cases hd : d = c
    · subst hd
      intro b hb _
      cases hc.symm.trans hb
      simp [dirBit_setDir_setBit, ht]
    · exact directionAt_setDir hchan hc hd (directionAt_of_busy hi hdir hbusy (by simp [Ne.symm hd])) true

theorem execBindIn_keeps_muxInv {q : Pin} {al pu : Bool} (hs : s.muxInv) (h : execBindIn c q al pu s = .next t) : t.muxInv := by
  have hi : (Instr.bindIn c q al pu).chan? = some c := rfl
  have ⟨hchan, hcip, hdir⟩ := hs
  have hquiet {k r} (h : s.cip = .busy (Instr.bindIn c q al pu).word k r) (d : Chan) : s.directionAt d :=
    directionAt_of_busy hi hdir h nofun
  obtain ⟨-, ⟨r, code, -, -, rfl⟩ | ⟨r, hm, hb, rfl⟩ | ⟨r, hm, rfl⟩ | ⟨r, rfl, hm, rfl⟩ | ⟨r, rfl, hm, rfl⟩⟩ :=
    execBindIn_next h
  · exact muxInv_raise hs ..
  · exact muxInv_bindStart hi hs (idle_of_microStep_zero hi hcip hm) hb ⟨chanOf_bindStart .., .inl ⟨rfl, rfl⟩⟩ nofun
  · obtain ⟨hbusy, hc, hk⟩ := microOk_of_microStep_succ hi hcip hm
    obtain rfl : r = s.dirOf q.port := by simpa using hk
    have hd (d) : (s.setDir q.port (setBit (s.dirOf q.port) q.idx false)).directionAt d := by
      by_cases hd : d = c
      · subst hd; exact directionAt_of_kind hc nofun
      · exact directionAt_setDir hchan hc hd (hquiet hbusy d) false
    cases pu with
    | false => exact muxInv_of_idle hchan rfl hd
    | true => exact muxInv_setCip hi hchan hd ⟨hc, .inr (.inl ⟨rfl, rfl⟩)⟩
  · obtain ⟨hbusy, hc, -⟩ := microOk_of_microStep_succ hi hcip hm
    exact muxInv_setCip hi hchan (hquiet hbusy) ⟨hc, .inr (.inr ⟨rfl, rfl, rfl⟩)⟩
  · obtain ⟨hbusy, -⟩ := microOk_of_microStep_succ hi hcip hm
    exact muxInv_of_idle hchan rfl (hquiet hbusy)

theorem execWrite_keeps_muxInv {level : Bool} (hs : s.muxInv) (h : execWrite c level s = .next t) : t.muxInv := by
  have hi : (Instr.write c level).chan? = some c := rfl
  have ⟨hchan, hcip, hdir⟩ := hs
  obtain ⟨-, ⟨r, f, -, -, rfl⟩ | ⟨r, b, hm, hb, rfl⟩ | ⟨r, b, hm, -, rfl⟩⟩ := execWrite_next h
  · exact muxInv_raise hs ..
  · obtain ⟨hc, hk⟩ := (chk_ok_iff ..).1 hb
    exact muxInv_setCip hi hchan (directionAt_of_idle hdir (idle_of_microStep_zero hi hcip hm)) ⟨rfl, b, hc, hk, rfl⟩
  · obtain ⟨hbusy, -⟩ := microOk_of_microStep_succ hi hcip hm
    have hquiet (d) : s.directionAt d := directionAt_of_busy hi hdir hbusy nofun
    exact muxInv_of_idle hchan rfl hquiet

theorem execTriWrite_keeps_muxInv {lvl : DriveLevel} (hs : s.muxInv) (h : execTriWrite c lvl s = .next t) : t.muxInv := by
  have hi : (Instr.triWrite c lvl).chan? = some c := rfl
  have ⟨hchan, hcip, hdir⟩ := hs
  have hquiet {k r} (h : s.cip = .busy (Instr.triWrite c lvl).word k r) (d : Chan) : s.directionAt d :=
    directionAt_of_busy hi hdir h nofun
  obtain ⟨-, ⟨r, f, -, -, rfl⟩ | ⟨r, b, hm, hb, rfl⟩ | ⟨r, b, hm, hb, rfl⟩ | ⟨r, b, hm, hb, rfl⟩ | ⟨r, b, hm, hb, rfl⟩⟩ :=
    execTriWrite_next h
  · exact muxInv_raise hs ..
  · obtain ⟨hc, hk⟩ := (chk_ok_iff ..).1 hb
    exact muxInv_setCip hi hchan (directionAt_of_idle hdir (idle_of_microStep_zero hi hcip hm)) ⟨b, hc, hk, .inl ⟨rfl, rfl⟩⟩
  · obtain ⟨hbusy, b', hc, hk, hr⟩ := microOk_of_microStep_succ hi hcip hm
    cases hc.symm.trans ((chk_ok_iff ..).1 hb).1
    obtain rfl : r = s.dirOf b.pin.port := by simpa using hr
    refine muxInv_setCip hi hchan (fun d => ?_) ⟨b, hc, hk, .inr (.inl rfl)⟩
    by_cases hd : d = c
    · subst hd
      exact directionAt_setTri_setDir hc (by cases lvl <;> simp [levelDrives, TriLast.ofLevel])
    · intro b' hb' hk'
      simpa [triOf_setTri, hd] using directionAt_setDir hchan hc hd (hquiet hbusy d) (levelDrives lvl) b' hb' hk'
  · obtain ⟨hc, hk⟩ := (chk_ok_iff ..).1 hb
    exact muxInv_setCip hi hchan (hquiet (microOk_of_microStep_succ hi hcip hm).1) ⟨b, hc, hk, .inr (.inr ⟨rfl, rfl⟩)⟩
  · exact muxInv_of_idle hchan rfl (hquiet (microOk_of_microStep_succ hi hcip hm).1)

theorem execRead_keeps_muxInv (hs : s.muxInv) (h : execRead c s = .next t) : t.muxInv := by
  obtain ⟨-, ⟨r, f, -, -, rfl⟩ | ⟨r, v, hm, hv, rfl⟩⟩ := execRead_next h
  · exact muxInv_raise hs ..
  · obtain ⟨b, -, -, rfl⟩ := (readChannel_ok_iff ..).1 hv
    have hidle := idle_of_microStep_zero (i := .read c) rfl hs.2.1 hm
    refine muxInv_congr ?_ hs
    constructor <;> simp [hidle]

/-- Every micro-step of a command keeps the mux invariant. -/
theorem exec_keeps_muxInv (hi : i.chan? = some c) (hs : s.muxInv) (h : exec i s = .next t) : t.muxInv := by
  cases i with
  | bindOut _ _ _ => exact execBindOut_keeps_muxInv hs h
  | bindTri _ _ _ => exact execBindTri_keeps_muxInv hs h
  | bindIn _ _ _ _ => exact execBindIn_keeps_muxInv hs h
  | write _ _ => exact execWrite_keeps_muxInv hs h
  | triWrite _ _ => exact execTriWrite_keeps_muxInv hs h
  | read _ => exact execRead_keeps_muxInv hs h
  | tick => cases hi
  | edge => cases hi

/-- LOOP's step keeps the mux invariant: outside the commands it leaves all of it alone. -/
theorem loopStep_keeps_muxInv (hs : s.muxInv) (h : s.loopStep = .next t) : t.muxInv := by
  obtain ⟨-, ⟨w, f, -, -, rfl⟩ | ⟨w, i, u, -, hd, hx, rfl⟩ | ⟨-, hx⟩⟩ := loopStep_next h
  · exact muxInv_raise hs ..
  · obtain ⟨c, hi⟩ := chan?_of_decodeWord hd
    have hu := exec_keeps_muxInv hi hs hx
    obtain h | ⟨-, -, h⟩ := afterMicroStep_eq u <;> rw [h]
    · exact hu
    · exact muxInv_congr ⟨rfl, rfl, rfl, rfl, rfl, rfl⟩ hu
  · exact muxInv_congr (sameMux_phaseStep hx) hs

end MuxInvariant

/-- Settles O43: only LOOP writes what the invariant speaks of, and its commands' micro-steps keep it. -/
theorem muxInvariantKept : Obligations.MuxInvariantKept := by
  unfold Obligations.MuxInvariantKept
  intro s t hs h
  obtain ⟨m, ms, n, u, -, hx, rfl⟩ := step_act h
  refine muxInv_congr (sameMux_epilogue u) ?_
  by_cases hm : m = .loop
  · subst hm; exact loopStep_keeps_muxInv (s := { s with sched := ms, picks := n }) hs hx
  · exact muxInv_congr (s := { s with sched := ms, picks := n }) (act_of_ne_loop hm hx).1 hs

end Sys2Proof.Machine
end

section
/-! PROOF. What the outputs show while the controller runs (R172, R182, R193, R198): what a step may do to `on`, `lp` and the levels shown is
said once, as `OutputStep`, and both relay invariants follow from it. -/

namespace Sys2Proof.Machine

section Outputs

variable {s t : State} {i : Instr} {c d : Chan} {b : Binding} {v : Bool}

/-- R50: a channel shows a level when it is an output, its pin is driven and the bit, translated, is that level. -/
theorem shows_iff : s.shows c v ↔
    ∃ b, s.chanOf c = some b ∧ b.kind ≠ .inp ∧ s.dirBit b.pin = true ∧ activeLow (s.outBit b.pin) b.al = v := by
  unfold State.shows State.logicalLevel
  cases s.chanOf c with
  | none => simp
  | some b => cases hk : b.kind <;> simp [hk]

/-- Every level shown is still shown. -/
def ShowsKept (s t : State) : Prop := ∀ c v, s.shows c v → t.shows c v

/-- Levels shown are the mux registers' and the channel table's alone. -/
theorem showsKept_of_sameMux (h : SameMux s t) : ShowsKept s t :=
  fun c v => (shows_congr h.dir h.out h.chan c v).2

/-- No micro-step of the command changes a level shown. -/
def KeepsShows (i : Instr) : Prop := ∀ s t, s.chanOk → s.cipOk → exec i s = .next t → ShowsKept s t

/-- BIND.OUT binds a free channel, and only ever drives a pin (R104). -/
theorem keepsShows_bindOut (c : Chan) (q : Pin) (al : Bool) : KeepsShows (.bindOut c q al) := by
  intro s t _ hcip h d v hs
  obtain ⟨b, hb, hk, hd, ho⟩ := shows_iff.1 hs
  obtain ⟨-, ⟨r, code, -, -, rfl⟩ | ⟨r, hm, hc, rfl⟩ | ⟨r, hm, rfl⟩⟩ := execBindOut_next h
  · exact (shows_congr (by simp) (by simp) (by simp) ..).2 hs
  · exact shows_iff.2 ⟨b, chanOf_setChan_of_bound ((bindchk_none_iff ..).1 hc).1 _ d b hb, hk, hd, ho⟩
  · obtain ⟨-, -, -, rfl⟩ := microOk_of_microStep_succ (i := .bindOut c q al) rfl hcip hm
    exact shows_iff.2 ⟨b, hb, hk, by simp [dirBit_setDir_setBit, hd], ho⟩

/-- Two channels' pins are two pins (R28). -/
theorem pin_ne_of_chanOk (hs : s.chanOk) {b b' : Binding} (hb : s.chanOf c = some b) (hb' : s.chanOf d = some b') (hne : d ≠ c) :
    b'.pin ≠ b.pin :=
  (hs c b hb).2 d hne b' hb'

/-- BIND.IN writes the bits of its own pin alone, which no output has (R28, R108). -/
theorem keepsShows_bindIn (c : Chan) (q : Pin) (al pu : Bool) : KeepsShows (.bindIn c q al pu) := by
  intro s t hchan hcip h d v hs
  obtain ⟨b, hb, hk, hd, ho⟩ := shows_iff.1 hs
  have hi : (Instr.bindIn c q al pu).chan? = some c := rfl
  have hpin (hc : s.chanOf c = some ⟨.inp, q, al, pu⟩) : b.pin ≠ q :=
    pin_ne_of_chanOk hchan hc hb fun hdc => hk (by subst hdc; cases hc.symm.trans hb; rfl)
  obtain ⟨-, ⟨r, code, -, -, rfl⟩ | ⟨r, hm, hc, rfl⟩ | ⟨r, hm, rfl⟩ | ⟨r, rfl, hm, rfl⟩ | ⟨r, rfl, hm, rfl⟩⟩ :=
    execBindIn_next h
  · exact (shows_congr (by simp) (by simp) (by simp) ..).2 hs
  · exact shows_iff.2 ⟨b, chanOf_setChan_of_bound ((bindchk_none_iff ..).1 hc).1 _ d b hb, hk, hd, ho⟩
  · obtain ⟨-, hc, hr⟩ := microOk_of_microStep_succ hi hcip hm
    obtain rfl : r = s.dirOf q.port := by simpa using hr
    exact shows_iff.2 ⟨b, hb, hk, by simpa [dirBit_setDir_setBit, hpin hc] using hd, ho⟩
  · exact hs
  · obtain ⟨-, hc, hr⟩ := microOk_of_microStep_succ hi hcip hm
    obtain rfl : r = s.outOf q.port := by simpa using hr
    exact shows_iff.2 ⟨b, hb, hk, hd, by simpa [outBit_setOut_setBit, hpin hc] using ho⟩

/-- R201: a command that has faulted leaves `lp` where it is. -/
theorem afterMicroStep_of_fault (h : s.fault ≠ .none) : s.afterMicroStep = s := by
  simp [State.afterMicroStep, h]

/-- A WRITE that is not complete keeps every level shown; a complete one shows its level on a driven pin, and keeps the others. -/
theorem execWrite_shows {level : Bool} (h : execWrite c level s = .next t) (hchan : s.chanOk) (hcip : s.cipOk) :
    t.afterMicroStep = t ∧ ShowsKept s t ∨
      t.afterMicroStep = t.goto (nextPhase t.cfg t.lp) ∧ (∀ d v, d ≠ c → s.shows d v → t.shows d v) ∧
        ∃ b, s.chanOf c = some b ∧ b.kind = .out ∧ (s.dirBit b.pin = true → t.shows c level) := by
  have hi : (Instr.write c level).chan? = some c := rfl
  obtain ⟨hf, ⟨r, f, -, he, rfl⟩ | ⟨r, b, hm, hb, rfl⟩ | ⟨r, b, hm, hb, rfl⟩⟩ := execWrite_next h
  · rw [raise_of_no_fault hf]
    exact .inl ⟨afterMicroStep_of_fault (chk_error_ne he), fun _ _ => id⟩
  · exact .inl ⟨by simp [State.afterMicroStep, hf], fun _ _ => id⟩
  · obtain ⟨-, -, b', hc, hk, rfl⟩ := microOk_of_microStep_succ hi hcip hm
    cases hc.symm.trans ((chk_ok_iff ..).1 hb).1
    refine .inr ⟨by simp [State.afterMicroStep, hf], fun d v hne hs => ?_, b, hc, hk, fun hd => ?_⟩
    · obtain ⟨b', hb', hk', hd, ho⟩ := shows_iff.1 hs
      exact shows_iff.2 ⟨b', hb', hk', hd, by simpa [outBit_setOut_setBit, pin_ne_of_chanOk hchan hc hb' hne] using ho⟩
    · exact shows_iff.2 ⟨b, hc, by simp [hk], hd, by simp [outBit_setOut_setBit, activeLow]⟩

/-- The pins of the controller's channels are its lines, in order (R30). -/
theorem lines_of_controllerBinding {cfg : Config} (h : controllerBinding cfg c = some b) : cfg.lines[c.val]? = some b.pin := by
  unfold controllerBinding at h
  repeat' split at h
  all_goals subst_vars
  all_goals cases h
  all_goals rfl

/-- R7, R30: in a controller run bound pins exist and are distinct. -/
theorem chanOk_of_controllerInv (h : s.controllerInv) : s.chanOk := by
  obtain ⟨hv, -, -, -, -, -, hchan, -⟩ := h
  obtain ⟨-, hpins, hnodup, -⟩ := (Config.valid_iff _).1 hv
  have hline {c b} (hb : s.chanOf c = some b) : s.cfg.lines[c.val]? = some b.pin := by
    rw [hchan] at hb
    split at hb
    · exact lines_of_controllerBinding hb
    · cases hb
  intro c b hb
  obtain ⟨hlt, hget⟩ := List.getElem?_eq_some_iff.1 (hline hb)
  refine ⟨decide_eq_true (hpins _ (hget ▸ List.getElem_mem hlt)), fun d hne b' hb' heq => hne ?_⟩
  have := hline hb'
  rw [heq, ← hline hb] at this
  exact Fin.ext ((List.getElem?_inj hlt hnodup).1 this.symm).symm

/-- The channel and the level of the WRITE a phase of the loop issues (R172 to R182). -/
def Phase.writes (cfg : Config) : Phase → Option (Chan × Bool)
  | .a1 => some (4, true)
  | .a2 => some (1, true)
  | .a3 => some (2, true)
  | .a3x => if cfg.auxFollowsRelays then some (3, true) else none
  | .b1 => some (4, false)
  | .b7 => some (4, true)
  | .z1 => some (4, false)
  | .z2 => some (1, false)
  | .z3 => some (2, false)
  | .z3x => if cfg.auxFollowsRelays then some (3, false) else none
  | _ => none

/-- What the controller's phases issue: the five binds of the boot, the WRITEs, and nothing else (R94, R162). -/
theorem phaseWord_of_controller (cfg : Config) {ph : Phase} (h : ph.ofController = true) :
    (∃ (i : Instr) (c : Chan), phaseWord cfg ph = some i.word ∧ i.chan? = some c ∧ KeepsShows i ∧
      ph.isBoot = true ∧ (nextPhase cfg ph).isBoot = true) ∨
    (∃ c v, phaseWord cfg ph = some (Instr.write c v).word ∧ ph.writes cfg = some (c, v)) ∨
    phaseWord cfg ph = none := by
  cases ph
  case boot0 => exact .inl ⟨_, 0, rfl, rfl, keepsShows_bindIn _ _ _ _, rfl, rfl⟩
  case boot1 => exact .inl ⟨_, 1, rfl, rfl, keepsShows_bindOut _ _ _, rfl, rfl⟩
  case boot2 => exact .inl ⟨_, 2, rfl, rfl, keepsShows_bindOut _ _ _, rfl, rfl⟩
  case boot3 => exact .inl ⟨_, 3, rfl, rfl, keepsShows_bindOut _ _ _, rfl, rfl⟩
  case boot4 => exact .inl ⟨_, 4, rfl, rfl, keepsShows_bindOut _ _ _, rfl, rfl⟩
  case a1 | a2 | a3 | b1 | b7 | z1 | z2 | z3 => exact .inr (.inl ⟨_, _, rfl, rfl⟩)
  case a3x | z3x =>
    cases ha : cfg.auxFollowsRelays
    · exact .inr (.inr (by simp [phaseWord, ha]))
    · exact .inr (.inl (by simp [Phase.writes, phaseWord, ha]))
  case cmd | done => cases h
  all_goals exact .inr (.inr rfl)

/-- A phase that writes is past the binds (R231). -/
theorem bindsDone_of_writes {cfg : Config} {ph : Phase} (h : ph.writes cfg = some (c, v)) : ph.bindsDone = 5 := by
  cases ph <;> simp [Phase.writes, Phase.bindsDone] at h ⊢

/-- LOOP at a command's word runs the command. -/
theorem loopStep_of_command (hw : phaseWord s.cfg s.lp = some i.word) (hi : i.chan? = some c) (h : s.loopStep = .next t) :
    ∃ u, exec i s = .next u ∧ t = u.afterMicroStep := by
  obtain ⟨-, ⟨w, f, hw', hd, -⟩ | ⟨w, j, u, hw', hd, hx, rfl⟩ | ⟨hw', -⟩⟩ := loopStep_next h
  · cases hw.symm.trans hw'
    cases (decodeWord_word hi).symm.trans hd
  · cases hw.symm.trans hw'
    cases (decodeWord_word hi).symm.trans hd
    exact ⟨u, hx, rfl⟩
  · cases hw.symm.trans hw'

/-- A command's micro-step leaves the configuration, `on` and `lp` alone (R100). -/
theorem exec_controls (hi : i.chan? = some c) (h : exec i s = .next t) : t.cfg = s.cfg ∧ t.on = s.on ∧ t.lp = s.lp := by
  obtain ⟨k, q, -, rfl⟩ | ⟨ht, -⟩ := exec_frame hi h
  · exact ⟨rfl, rfl, rfl⟩
  · rw [ht]; exact ⟨rfl, rfl, rfl⟩

/-- The phases outside the writes of a switch on and of a power-off: in the others some outputs are ahead of `on` (R172, R182). -/
def Phase.ordinary : Phase → Bool
  | .a2 | .a3 | .a3x | .a4 | .z2 | .z3 | .z3x | .z4 => false
  | _ => true

/-- What a step of the controller may do to `on`, `lp` and the levels shown. -/
inductive OutputStep (s t : State) : Prop where
  /-- All are kept. -/
  | stay (hon : t.on = s.on) (hlp : t.lp = s.lp) (hk : ShowsKept s t)
  /-- LOOP goes on between two phases at which no output is ahead of `on`. -/
  | ordinary (hs : s.lp.ordinary = true) (ht : t.lp.ordinary = true) (hon : t.on = s.on) (hk : ShowsKept s t)
  /-- The WRITE of the phase is complete. -/
  | write (c : Chan) (v : Bool) (hw : s.lp.writes s.cfg = some (c, v)) (hon : t.on = s.on) (hlp : t.lp = nextPhase s.cfg s.lp)
      (hv : t.shows c v) (hk : ∀ d v', d ≠ c → s.shows d v' → t.shows d v')
  /-- The auxiliary output does not follow the relays, so its write is left out (R162). -/
  | skip (haux : ¬ s.auxFollows) (hlp : s.lp = .a3x ∧ t.lp = .a4 ∨ s.lp = .z3x ∧ t.lp = .z4) (hon : t.on = s.on)
      (hk : ShowsKept s t)
  /-- `A4` sets `on` (R172). -/
  | switchOn (hs : s.lp = .a4) (ht : t.lp = .a5) (hon : t.on = true) (hk : ShowsKept s t)
  /-- `Z4` clears it (R182). -/
  | switchOff (hs : s.lp = .z4) (ht : t.lp = .s0) (hon : t.on = false) (hk : ShowsKept s t)

/-- R181: the zero check goes on to an ordinary phase and leaves `on` alone. -/
theorem zeroCheck_ordinary (s : State) : s.zeroCheck.lp.ordinary = true ∧ s.zeroCheck.on = s.on := by
  unfold State.zeroCheck
  split <;> exact ⟨rfl, rfl⟩

/-- A phase that is one atomic step writes no output. -/
theorem outputStep_of_phaseStep (hw : phaseWord s.cfg s.lp = none) (h : s.phaseStep = .next t) : OutputStep s t := by
  have hk := showsKept_of_sameMux (sameMux_phaseStep h)
  have hord (hs : s.lp.ordinary = true) (ht : t.lp.ordinary = true) (hon : t.on = s.on) : OutputStep s t :=
    .ordinary hs ht hon hk
  have haux {ph} (hs : s.lp = ph) (hph : ph = .a3x ∨ ph = .z3x) : ¬ s.auxFollows := by
    intro ha
    unfold State.auxFollows at ha
    rcases hph with rfl | rfl <;> simp [phaseWord, hs, ha] at hw
  cases hlp : s.lp <;> simp only [State.phaseStep, hlp, reduceCtorEq, Host.Outcome.next.injEq] at h <;> subst h
  case a4 => exact .switchOn hlp rfl rfl hk
  case z4 => exact .switchOff hlp rfl rfl hk
  case a3x => exact .skip (haux hlp (.inl rfl)) (.inl ⟨hlp, rfl⟩) rfl hk
  case z3x => exact .skip (haux hlp (.inr rfl)) (.inr ⟨hlp, rfl⟩) rfl hk
  case boot5 => exact hord (by rw [hlp]; rfl) rfl (by simp [State.enableInterrupts])
  case z0 => exact hord (by rw [hlp]; rfl) (zeroCheck_ordinary s).1 (zeroCheck_ordinary s).2
  case s0 | s1 | b6 => exact hord (by rw [hlp]; rfl) (by rw [State.goto_lp]; split <;> rfl) rfl
  all_goals exact hord (by rw [hlp]; rfl) rfl rfl

/-- The boot writes no output. -/
theorem Phase.ordinary_of_isBoot {ph : Phase} (h : ph.isBoot = true) : ph.ordinary = true := by
  cases ph <;> simp [Phase.isBoot, Phase.ordinary] at h ⊢

/-- A channel that a writing phase finds bound as an output is driven (R30, R231). -/
theorem driven_of_writes (hs : s.controllerInv) (hw : s.lp.writes s.cfg = some (c, v)) (hb : s.chanOf c = some b)
    (hk : b.kind = .out) : s.dirBit b.pin = true := by
  obtain ⟨-, -, -, -, -, -, htable, -, hdriven, -⟩ := hs
  have hdone := bindsDone_of_writes hw
  have hcount : s.boundCount = 5 := by
    unfold State.boundCount
    rw [hdone]
    split <;> rfl
  rw [htable, hcount] at hb
  split at hb
  · rename_i hlt
    exact hdriven c b hb hk (hdone ▸ hlt)
  · cases hb

/-- A step of the controller's loop. -/
theorem outputStep_of_loopStep (hs : s.controllerInv) (h : s.loopStep = .next t) : OutputStep s t := by
  have hchan := chanOk_of_controllerInv hs
  have ⟨_, _, _, hlp, hcip, _⟩ := hs
  obtain ⟨i, c, hw, hi, hk, hb, hb'⟩ | ⟨c, v, hw, hwr⟩ | hw := phaseWord_of_controller s.cfg hlp
  · obtain ⟨u, hx, rfl⟩ := loopStep_of_command hw hi h
    obtain ⟨hcfg, hon, hlp⟩ := exec_controls hi hx
    have hk := hk s u hchan hcip hx
    obtain h | ⟨-, -, h⟩ := afterMicroStep_eq u <;> rw [h]
    · exact .stay hon hlp hk
    · exact .ordinary (Phase.ordinary_of_isBoot hb) (Phase.ordinary_of_isBoot (by simpa [hcfg, hlp] using hb')) hon hk
  · obtain ⟨u, hx, rfl⟩ := loopStep_of_command hw rfl h
    obtain ⟨hcfg, hon, hlp⟩ := exec_controls (i := .write c v) rfl hx
    obtain ⟨h, hk⟩ | ⟨h, hk, b, hb, hko, hv⟩ := execWrite_shows hx hchan hcip <;> rw [h]
    · exact .stay hon hlp hk
    · exact .write c v hwr hon (by simp [hcfg, hlp]) (hv (driven_of_writes hs hwr hb hko)) hk
  · obtain ⟨-, ⟨w, f, hw', -⟩ | ⟨w, j, u, hw', -⟩ | ⟨-, hx⟩⟩ := loopStep_next h
    · cases hw.symm.trans hw'
    · cases hw.symm.trans hw'
    · exact outputStep_of_phaseStep hw hx

/-- Any move of the controller. -/
theorem outputStep_of_act {m : Move} (hs : s.controllerInv) (h : s.act m = .next t) : OutputStep s t ∧ t.cfg = s.cfg := by
  by_cases hm : m = .loop
  · subst hm; exact ⟨outputStep_of_loopStep hs h, (loopKeeps h).cfg⟩
  · obtain ⟨hmux, hlp, hon, -⟩ := act_of_ne_loop hm h
    exact ⟨.stay hon hlp (showsKept_of_sameMux hmux), hmux.cfg⟩

/-- `relayInv` depends on `on`, `lp` and the levels shown alone. -/
theorem relayInv_mono (hcfg : t.cfg = s.cfg) (hon : t.on = s.on) (hlp : t.lp = s.lp) (hk : ShowsKept s t) (hs : s.relayInv) :
    t.relayInv := by
  unfold State.relayInv State.auxFollows at hs ⊢
  rw [hcfg, hon, hlp]
  obtain ⟨h1, h2, h3, h4, h5, h6, h7⟩ := hs
  exact ⟨fun a b => hk _ _ (h1 a b), fun a b => hk _ _ (h2 a b), fun a b c => hk _ _ (h3 a b c), fun a => hk _ _ (h4 a),
    fun a => hk _ _ (h5 a), fun a b => hk _ _ (h6 a b), fun a => hk _ _ (h7 a)⟩

/-- And `offInv`. -/
theorem offInv_mono (hcfg : t.cfg = s.cfg) (hon : t.on = s.on) (hlp : t.lp = s.lp) (hk : ShowsKept s t) (hs : s.offInv) :
    t.offInv := by
  unfold State.offInv State.auxFollows at hs ⊢
  rw [hcfg, hon, hlp]
  intro hoff
  obtain ⟨h1, h2, h3, h4⟩ := hs hoff
  exact ⟨fun a => hk _ _ (h1 a), fun a => hk _ _ (h2 a), fun a => hk _ _ (h3 a), fun a b => hk _ _ (h4 a b)⟩

/-- At an ordinary phase the relays show 1 while `on` is 1, and nothing else is claimed. -/
theorem relayInv_iff_of_ordinary (h : s.lp.ordinary = true) :
    s.relayInv ↔ (s.on = true → s.shows 1 true ∧ s.shows 2 true ∧ (s.auxFollows → s.shows 3 true)) := by
  unfold State.relayInv
  cases hlp : s.lp <;> simp [hlp, Phase.ordinary] at h ⊢ <;> grind

/-- At an ordinary phase the four outputs show 0 while `on` is 0. -/
theorem offInv_iff_of_ordinary (h : s.lp.ordinary = true) :
    s.offInv ↔ (s.on = false → s.shows 4 false ∧ s.shows 1 false ∧ s.shows 2 false ∧ (s.auxFollows → s.shows 3 false)) := by
  unfold State.offInv
  cases hlp : s.lp <;> simp [hlp, Phase.ordinary] at h ⊢

/-- A complete WRITE of an output puts it on the side that `relayInv` asks of the next phase, and of the other outputs it asks there what it
asked before. -/
theorem relayInv_of_write (hw : s.lp.writes s.cfg = some (c, v)) (hcfg : t.cfg = s.cfg) (hon : t.on = s.on)
    (hlp : t.lp = nextPhase s.cfg s.lp) (hv : t.shows c v) (hk : ∀ d v', d ≠ c → s.shows d v' → t.shows d v')
    (hs : s.relayInv) : t.relayInv := by
  unfold State.relayInv State.auxFollows at hs ⊢
  rw [hcfg, hon, hlp]
  cases h : s.lp <;> rw [h, Phase.writes] at hw
  case a3x | z3x =>
    split at hw <;> cases hw
    all_goals simp [h, nextPhase] at hs ⊢
    all_goals grind
  all_goals cases hw
  all_goals simp [h, nextPhase] at hs ⊢
  all_goals grind

/-- Every step of the controller keeps `relayInv`. -/
theorem relayInv_of_outputStep (h : OutputStep s t) (hcfg : t.cfg = s.cfg) (hs : s.relayInv) : t.relayInv := by
  cases h with
  | stay hon hlp hk => exact relayInv_mono hcfg hon hlp hk hs
  | ordinary h h' hon hk =>
    rw [relayInv_iff_of_ordinary h] at hs
    rw [relayInv_iff_of_ordinary h', hon, State.auxFollows, hcfg]
    intro ht
    obtain ⟨h1, h2, h3⟩ := hs ht
    exact ⟨hk _ _ h1, hk _ _ h2, fun ha => hk _ _ (h3 ha)⟩
  | write c v hw hon hlp hv hk => exact relayInv_of_write hw hcfg hon hlp hv hk hs
  | skip haux hlp hon hk =>
    unfold State.relayInv State.auxFollows at *
    rw [hcfg]
    obtain ⟨h, h'⟩ | ⟨h, h'⟩ := hlp
    · simp [h, h', haux] at hs ⊢
      exact ⟨hk _ _ hs.1, hk _ _ hs.2⟩
    · simp [h, h', haux] at hs ⊢
      exact ⟨hk _ _ hs.1, hk _ _ hs.2.1, hk _ _ hs.2.2⟩
  | switchOn h h' hon hk =>
    rw [relayInv_iff_of_ordinary (by rw [h']; rfl), State.auxFollows, hcfg]
    simp [State.relayInv, h, State.auxFollows] at hs
    exact fun _ => ⟨hk _ _ hs.1, hk _ _ hs.2.1, fun ha => hk _ _ (hs.2.2 ha)⟩
  | switchOff h h' hon hk =>
    rw [relayInv_iff_of_ordinary (by rw [h']; rfl), hon]
    nofun

/-- At `Z4` the power-off is complete but for `on`: the four outputs show 0. -/
theorem shows_of_z4 (hs : s.relayInv) (h : s.lp = .z4) :
    s.shows 4 false ∧ s.shows 1 false ∧ s.shows 2 false ∧ (s.auxFollows → s.shows 3 false) := by
  unfold State.relayInv at hs
  simp [h] at hs
  tauto

/-- A complete WRITE keeps `offInv`: of 0, or of 1 by the output's own write of a press while OFF; `B7` is a press while ON. -/
theorem offInv_of_write (hw : s.lp.writes s.cfg = some (c, v)) (hcfg : t.cfg = s.cfg) (hon : t.on = s.on)
    (hlp : t.lp = nextPhase s.cfg s.lp) (hv : t.shows c v) (hk : ∀ d v', d ≠ c → s.shows d v' → t.shows d v')
    (hb : s.lp = .b7 → s.on = true) (hs : s.offInv) : t.offInv := by
  unfold State.offInv State.auxFollows at hs ⊢
  rw [hcfg, hon, hlp]
  intro hoff
  replace hs := hs hoff
  cases h : s.lp <;> rw [h, Phase.writes] at hw
  case b7 => simp [hb h] at hoff
  case a3x | z3x =>
    split at hw <;> cases hw
    all_goals simp [h, nextPhase] at hs ⊢
    all_goals grind
  all_goals cases hw
  all_goals simp [h, nextPhase] at hs ⊢
  all_goals grind

/-- Every step of the controller keeps `offInv`; the end of a power-off establishes it. -/
theorem offInv_of_outputStep (h : OutputStep s t) (hcfg : t.cfg = s.cfg) (hr : s.relayInv) (hb : s.lp = .b7 → s.on = true)
    (hs : s.offInv) : t.offInv := by
  cases h with
  | stay hon hlp hk => exact offInv_mono hcfg hon hlp hk hs
  | ordinary h h' hon hk =>
    rw [offInv_iff_of_ordinary h] at hs
    rw [offInv_iff_of_ordinary h', hon, State.auxFollows, hcfg]
    intro ht
    obtain ⟨h4, h1, h2, h3⟩ := hs ht
    exact ⟨hk _ _ h4, hk _ _ h1, hk _ _ h2, fun ha => hk _ _ (h3 ha)⟩
  | write c v hw hon hlp hv hk => exact offInv_of_write hw hcfg hon hlp hv hk hb hs
  | skip haux hlp hon hk =>
    unfold State.offInv State.auxFollows at *
    rw [hcfg, hon]
    obtain ⟨h, h'⟩ | ⟨h, h'⟩ := hlp
    · simp [h']
    · simp [h, h', haux] at hs ⊢
      exact fun ht => ⟨hk _ _ (hs ht).1, hk _ _ (hs ht).2.1, hk _ _ (hs ht).2.2⟩
  | switchOn h h' hon hk => exact fun hoff => by rw [hon] at hoff; cases hoff
  | switchOff h h' hon hk =>
    rw [offInv_iff_of_ordinary (by rw [h']; rfl), State.auxFollows, hcfg]
    obtain ⟨h4, h1, h2, h3⟩ := shows_of_z4 hr h
    exact fun _ => ⟨hk _ _ h4, hk _ _ h1, hk _ _ h2, fun ha => hk _ _ (h3 ha)⟩

end Outputs

/-- Settles O49: the outputs' levels move with `on` and `lp` as `OutputStep` says, and the epilogue moves none of them. -/
theorem relaysFollowOn : Obligations.RelaysFollowOn := by
  unfold Obligations.RelaysFollowOn
  intro s t hc hr h
  obtain ⟨m, ms, n, u, -, hx, rfl⟩ := step_act h
  obtain ⟨hu, hcfg⟩ := outputStep_of_act (s := { s with sched := ms, picks := n }) hc hx
  have hk : ShowsKept u u.epilogue := showsKept_of_sameMux (sameMux_epilogue u)
  have hoff (hb : s.lp = .b7 → s.on = true) (ho : s.offInv) : u.epilogue.offInv :=
    offInv_mono (by simp) (by simp) (by simp) hk (offInv_of_outputStep hu hcfg hr hb ho)
  refine ⟨?_, fun hz => ?_, fun hon ho => ?_⟩
  · exact relayInv_mono (by simp) (by simp) (by simp) hk (relayInv_of_outputStep hu hcfg hr)
  · refine hoff (by simp [hz]) fun _ => ?_
    obtain ⟨h4, h1, h2, h3⟩ := shows_of_z4 hr hz
    exact ⟨fun _ => h4, fun _ => h1, fun _ => h2, fun ha _ => h3 ha⟩
  · exact hoff (fun hb => hon.2.2 (by rw [hb]; rfl)) ho

end Sys2Proof.Machine
end

section
/-! PROOF. A complete WRITE (R50, R112), and the state after reset (R49): its values and the invariants. -/

namespace Sys2Proof.Machine

/-- `μ0` of WRITE on an output channel reads the register (R111). -/
theorem execWrite_read {s : State} {c : Chan} {b : Binding} (level : Bool) (hf : s.fault = .none) (hcip : s.cip = .idle)
    (hc : s.chk c .out = .ok b) :
    exec (.write c level) s = .next (s.setCip (.busy (Instr.write c level).word 1 (s.outOf b.pin.port))) := by
  simp [exec, execWrite, hf, hcip, hc]

/-- `μ1` writes it back with the channel's bit changed (R111). -/
theorem execWrite_modify {s : State} {c : Chan} {level : Bool} {b : Binding} {r : PortReg} (hf : s.fault = .none)
    (hcip : s.cip = .busy (Instr.write c level).word 1 r) (hc : s.chk c .out = .ok b) :
    exec (.write c level) s =
      .next ((s.setOut b.pin.port (setBit r b.pin.idx (activeLow level b.al))).setCip .idle) := by
  simp [exec, execWrite, hf, microStep_of_busy hcip, hc]

/-- A WRITE on an output channel completes with its pin's output bit at `level ^ al`, the binding and the direction as before. -/
theorem execWrite_completes {s : State} {c : Chan} {b : Binding} (level : Bool) (hf : s.fault = .none) (hcip : s.cip = .idle)
    (hb : s.chanOf c = some b) (hk : b.kind = .out) :
    ∃ s1 t, exec (.write c level) s = .next s1 ∧ exec (.write c level) s1 = .next t ∧ t.chanOf c = some b ∧
      t.dirBit b.pin = s.dirBit b.pin ∧ t.outBit b.pin = activeLow level b.al := by
  have hc : s.chk c .out = .ok b := (chk_ok_iff ..).2 ⟨hb, hk⟩
  refine ⟨_, _, execWrite_read level hf hcip hc, execWrite_modify hf rfl hc, hb, rfl, ?_⟩
  exact (outBit_setOut_setBit s b.pin b.pin _).trans (if_pos rfl)

/-- Settles O22: the level shown is read off the bit that the WRITE leaves. -/
theorem writeSetsLogicalLevel : Obligations.WriteSetsLogicalLevel := by
  unfold Obligations.WriteSetsLogicalLevel
  intro s c level b hf hcip hb hk hd
  obtain ⟨s1, t, h1, h2, hb', hd', ho⟩ := execWrite_completes level hf hcip hb hk
  rw [hd] at hd'
  refine ⟨s1, t, h1, h2, ?_, fun he => ?_⟩
  · simp [State.logicalLevel, hb', hk, hd', ho, activeLow]
  · simp [State.lineLevel, hd', he, ho, activeLow]

/-- Settles O42: the registers and tables are filled with their reset value, and the start phase is `State.resetPhase`'s. -/
theorem resetValues : Obligations.ResetValues := by
  unfold Obligations.ResetValues
  intro cfg ext sched
  refine ⟨fun p => ?_, fun c => ?_, rfl, rfl, rfl, rfl, rfl, rfl, rfl, rfl, rfl, rfl, rfl, rfl, rfl, rfl, rfl, rfl, ?_, ?_, ?_⟩
  · simp [State.dirOf, State.outOf, State.resetWith]
  · simp [State.chanOf, State.triOf, State.resetWith]
  · intro h; simp [State.resetWith, State.resetPhase, h]
  · intro h; simp [State.resetWith, State.resetPhase, h]
  · intro w ws h; simp [State.resetWith, State.resetPhase, h]

section Reset

variable (cfg : Config) (ext : Vector (Vector Drive 8) 16) (sched : List Move)

/-- The direction bits are 0 at reset: every pin floats. -/
theorem dirBit_resetWith (q : Pin) :
    (State.resetWith cfg ext sched).dirBit q = false := by
  simp [State.dirBit, State.dirOf, State.resetWith, bitOf]

/-- No channel is bound at reset. -/
theorem chanOf_resetWith (c : Chan) :
    (State.resetWith cfg ext sched).chanOf c = none := by
  simp [State.chanOf, State.resetWith]

/-- LOOP starts the boot or a command list. -/
theorem resetPhase_cases :
    State.resetPhase cfg = .boot0 ∨ State.resetPhase cfg = .done ∨ State.resetPhase cfg = .cmd 0 := by
  unfold State.resetPhase
  split
  · exact .inl rfl
  · exact .inr (.inl rfl)
  · exact .inr (.inr rfl)

theorem muxInv_resetWith : (State.resetWith cfg ext sched).muxInv := by
  have hnone := chanOf_resetWith cfg ext sched
  refine ⟨fun c b hb => ?_, trivial, fun c b hb => ?_⟩ <;> simp [hnone] at hb

theorem tickInv_resetWith (hv : cfg.valid = true) : (State.resetWith cfg ext sched).tickInv := by
  obtain ⟨-, -, -, -, h1, h2, -⟩ := cfg.valid_iff.1 hv
  exact ⟨h1, by simpa [State.resetWith] using h2, 0, by simp [State.resetWith]⟩

theorem relayInv_resetWith : (State.resetWith cfg ext sched).relayInv := by
  have hlp : (State.resetWith cfg ext sched).lp = State.resetPhase cfg := rfl
  have hon : (State.resetWith cfg ext sched).on = false := rfl
  unfold State.relayInv
  rw [hlp, hon]
  obtain h | h | h := resetPhase_cases cfg <;> simp [h]

theorem controllerInv_resetWith (hv : cfg.valid = true) (hm : cfg.loopMode = .controller) :
    (State.resetWith cfg ext sched).controllerInv := by
  have hlp : (State.resetWith cfg ext sched).lp = .boot0 := by simp [State.resetWith, State.resetPhase, hm]
  have hdir := dirBit_resetWith cfg ext sched
  refine ⟨hv, hm, rfl, by rw [hlp]; rfl, trivial, trivial, fun c => ?_, fun q hq => ?_, fun c b _ _ hc => ?_,
    fun h => absurd hlp h, fun _ => ⟨rfl, rfl, rfl⟩⟩
  · have hcount : (State.resetWith cfg ext sched).boundCount = 0 := by
      have hcip : (State.resetWith cfg ext sched).cip = .idle := rfl
      simp [State.boundCount, hcip, hlp, Phase.bindsDone]
    simp [chanOf_resetWith, hcount]
  · simp [hdir] at hq
  · rw [hlp] at hc
    cases hc

end Reset

/-- Settles O50: at reset every pin floats, no channel is bound, no command is in progress and LOOP is at the start of its boot or list. -/
theorem invariantsHoldAtReset : Obligations.InvariantsHoldAtReset := by
  unfold Obligations.InvariantsHoldAtReset
  intro cfg ext sched hv
  have hlp : (State.resetWith cfg ext sched).lp = State.resetPhase cfg := rfl
  refine ⟨muxInv_resetWith .., ⟨fun _ => rfl, fun _ => rfl, fun h => ?_⟩, fun h => ?_, tickInv_resetWith _ _ _ hv,
    fun _ => ⟨rfl, rfl⟩, fun _ => ⟨rfl, rfl⟩, relayInv_resetWith .., controllerInv_resetWith _ _ _ hv⟩
  · rw [hlp] at h
    obtain h' | h' | h' := resetPhase_cases cfg <;> rw [h'] at h <;> cases h
  · exact Nat.zero_le _

end Sys2Proof.Machine
end

section
/-! PROOF. The last micro-step of a read-modify-write (R66, R102): it stores from the value read before, whatever the register holds. -/

namespace Sys2Proof.Machine

/-- R102: the model's one-bit update is the rules' set or clear of the bit. -/
theorem setBit_eq_withBit (t : PortReg) (i : PinIdx) (b : Bool) : setBit t i b = withBit t i b := by
  cases b
  · exact setBit_false t i
  · exact setBit_true t i

/-- Of two writes of one port's `OUT` the second stands. -/
@[simp] theorem setOut_setOut (s : State) (p : PortNo) (v w : PortReg) : (s.setOut p v).setOut p w = s.setOut p w := by
  simp [State.setOut]

/-- Of two writes of one port's `DIR` the second stands. -/
@[simp] theorem setDir_setDir (s : State) (p : PortNo) (v w : PortReg) : (s.setDir p v).setDir p w = s.setDir p w := by
  simp [State.setDir]

/-- `μ1` of BIND.OUT writes the direction register back with the pin's bit set (R104). -/
theorem execBindOut_modify {s : State} {c : Chan} {q : Pin} {al : Bool} {r : PortReg} (hf : s.fault = .none)
    (hcip : s.cip = .busy (Instr.bindOut c q al).word 1 r) :
    exec (.bindOut c q al) s = .next ((s.setDir q.port (setBit r q.idx true)).setCip .idle) := by
  simp [exec, execBindOut, hf, microStep_of_busy hcip]

/-- Settles O19: the whole register is stored, so the interleaved value is overwritten. -/
theorem interleavedWriteIsLost : Obligations.InterleavedWriteIsLost := by
  unfold Obligations.InterleavedWriteIsLost
  constructor
  · intro s c level b t v hf hb hk hcip
    have hc : (s.setOut b.pin.port v).chk c .out = .ok b := (chk_ok_iff ..).2 ⟨hb, hk⟩
    have hstore := execWrite_modify (s := s.setOut b.pin.port v) hf hcip hc
    rwa [setOut_setOut, setBit_eq_withBit] at hstore
  · intro s c q al t v hf hcip
    have hstore := execBindOut_modify (s := s.setDir q.port v) hf hcip
    rwa [setDir_setDir, setBit_eq_withBit] at hstore

end Sys2Proof.Machine
end

section
/-! PROOF. A scheduled move that opposes no pin (R69, R204), and the race of the tick with the zero check (R246). -/

namespace Sys2Proof.Machine

/-- R121: the contention check finds nothing exactly when no pin is opposed. -/
theorem contendedPin_eq_none_iff_not_opposed (s : State) : s.contendedPin = none ↔ ∀ q, ¬ s.opposed q := by
  refine ⟨not_opposed, fun h => (contendedPin_eq_none_iff s).2 fun q hq => ?_⟩
  have hquiet : s.dirBit q = true → ¬ (s.extOf q = .l ∧ s.outBit q = true ∨ s.extOf q = .h ∧ s.outBit q = false) :=
    fun hdir hagainst => h q ⟨of_decide_eq_true hq, hdir, hagainst⟩
  cases he : s.extOf q <;> simp_all [State.contends]

/-- Only a move that has a step answers a next state. -/
theorem enabled_of_act {s u : State} {m : Move} (h : s.act m = .next u) : s.enabled m = true := by
  cases m with
  | loop => exact (loopStep_next h).1
  | tick =>
    obtain ⟨hf, hp, -⟩ := execTick_next h
    simp [State.enabled, hf, hp]
  | edge =>
    obtain ⟨hf, hp, -⟩ := execEdge_next h
    simp [State.enabled, hf, hp]
  | advance =>
    simp only [State.act, State.advanceStep] at h
    split at h
    · assumption
    · cases h
  | setExt q e =>
    simp only [State.act, State.setExtStep] at h
    split at h
    · assumption
    · cases h

/-- A scheduled move runs if it has a step; where it faults nothing and opposes no pin, its epilogue can change the edge detector's
records alone. -/
theorem step_of_scheduled {s u : State} {m : Move} {ms : List Move} (hv : s.cfg.valid = true) (hf : s.fault = .none)
    (ha : State.act { s with sched := ms } m = .next u) (hu : u.fault = .none) (hq : ∀ q, ¬ u.opposed q) :
    ∃ n v d, step { s with sched := m :: ms } = .next { u with edgePending := n, btnLast := v, draws := d } := by
  have hm : State.taken { s with sched := m :: ms } = some m := chosen_of_enabled (enabled_of_act ha)
  have hepi : u.epilogue = u.edgeDetect := by
    simp [State.epilogue, hu, (contendedPin_eq_none_iff_not_opposed u).2 hq]
  obtain ⟨n, v, d, hd, -⟩ := edgeDetect_cases u
  exact ⟨n, v, d, (step_of_taken (s := { s with sched := m :: ms }) hv hf hm ha).trans (by rw [hepi, hd])⟩

section Race

variable {s : State} (hv : s.cfg.valid = true) (hf : s.fault = .none) (hq : ∀ q, ¬ s.opposed q)

include hf in
/-- R181: LOOP's step at `Z0` is the zero check. -/
theorem act_loop_of_z0 (hlp : s.lp = .z0) : s.act .loop = .next s.zeroCheck := by
  simp [State.act, State.loopStep, State.loopEnabled, hf, hlp, phaseWord, State.phaseStep]

include hv hf hq

/-- R142: a scheduled run of TICK with a tick pending. -/
theorem step_tick_of_scheduled (ms : List Move) (hp : s.tickPending = true) :
    ∃ n v d, step { s with sched := .tick :: ms } = .next { s with
      sched := ms, tickPending := false, countdown := decrement s.countdown, edgePending := n, btnLast := v, draws := d } := by
  have ha : State.act { s with sched := ms } .tick =
      .next { s with sched := ms, tickPending := false, countdown := decrement s.countdown } := by
    simp [State.act, exec, execTick, running, hf, hp]
  exact step_of_scheduled hv hf ha hf hq

/-- R181: a scheduled zero check that finds 0 begins the power-off. -/
theorem step_zeroCheck_of_zero (ms : List Move) (hlp : s.lp = .z0) (hc : s.countdown = 0) :
    ∃ n v d, step { s with sched := .loop :: ms } = .next { s with
      sched := ms, lp := .z1, edgePending := n, btnLast := v, draws := d } := by
  have ha : State.act { s with sched := ms } .loop = .next { s with sched := ms, lp := .z1 } :=
    (act_loop_of_z0 (s := { s with sched := ms }) hf hlp).trans (congrArg _ (if_pos hc))
  exact step_of_scheduled hv hf ha hf hq

/-- R181: one that finds more ends the poll. -/
theorem step_zeroCheck_of_ne_zero (ms : List Move) (hlp : s.lp = .z0) (hc : s.countdown ≠ 0) :
    ∃ n v d, step { s with sched := .loop :: ms } = .next { s with
      sched := ms, polled := true, lp := .s0, edgePending := n, btnLast := v, draws := d } := by
  have ha : State.act { s with sched := ms } .loop = .next { s with sched := ms, polled := true, lp := .s0 } :=
    (act_loop_of_z0 (s := { s with sched := ms }) hf hlp).trans (congrArg _ (if_neg hc))
  exact step_of_scheduled hv hf ha hf hq

end Race

/-- Settles O54: the tick takes the countdown from 1 to 0, and the zero check finds 0 after it and 1 before it. -/
theorem countdownRaceBothOrders : Obligations.CountdownRaceBothOrders := by
  unfold Obligations.CountdownRaceBothOrders
  intro s ms hv hf hlp hp hc hq
  have hone : s.countdown ≠ 0 := by rw [hc]; decide
  have hzero : decrement s.countdown = 0 := by rw [hc]; rfl
  constructor
  · obtain ⟨n, v, d, ht⟩ := step_tick_of_scheduled hv hf hq (.loop :: ms) hp
    obtain ⟨_, _, _, hu⟩ := step_zeroCheck_of_zero
      (s := { s with tickPending := false, countdown := decrement s.countdown, edgePending := n, btnLast := v, draws := d })
      hv hf hq ms hlp hzero
    exact ⟨_, _, ht, hu, hzero, rfl, rfl⟩
  · obtain ⟨n, v, d, ht⟩ := step_zeroCheck_of_ne_zero hv hf hq (.tick :: ms) hlp hone
    obtain ⟨_, _, _, hu⟩ := step_tick_of_scheduled
      (s := { s with polled := true, lp := .s0, edgePending := n, btnLast := v, draws := d }) hv hf hq ms hp
    exact ⟨_, _, ht, hu, hzero, rfl, rfl⟩

end Sys2Proof.Machine
end

section
/-! PROOF. The command words as numbers, and the decoder operation by operation: which bits each operation requires to be zero, and that
a decoded word is the word of what it decodes to (R81 to R94, D40). -/

namespace Sys2Proof

/-- R81: the fields stand side by side, the operation highest. -/
theorem assemble_eq_append (op ch : BitVec 3) (port : BitVec 4) (idx : BitVec 3) (al : Bool) (arg : BitVec 2) :
    assemble op ch port idx al arg = (op ++ ch ++ port ++ idx ++ BitVec.ofBool al ++ arg).cast (by decide) := by
  refine BitVec.eq_of_getLsbD_eq fun j hj => ?_
  simp only [getLsbD_assemble, BitVec.getLsbD_cast, BitVec.getLsbD_append]
  interval_cases j <;> simp

/-- R81: a word as a number, its fields in the places the shifts give them. -/
theorem toNat_assemble_or (op ch : BitVec 3) (port : BitVec 4) (idx : BitVec 3) (al : Bool) (arg : BitVec 2) :
    (assemble op ch port idx al arg).toNat =
      op.toNat <<< 13 ||| ch.toNat <<< 10 ||| port.toNat <<< 6 ||| idx.toNat <<< 3 ||| al.toNat <<< 2 ||| arg.toNat := by
  simp only [assemble_eq_append, BitVec.toNat_cast, BitVec.toNat_append, BitVec.toNat_ofBool, Nat.shiftLeft_or_distrib,
    ← Nat.shiftLeft_add]

/-- Side by side, the upper part counts in steps of the lower part's range. -/
theorem toNat_append_add {m n : Nat} (x : BitVec m) (y : BitVec n) : (x ++ y).toNat = x.toNat * 2 ^ n + y.toNat := by
  rw [BitVec.toNat_append, ← Nat.shiftLeft_add_eq_or_of_lt y.isLt, Nat.shiftLeft_eq]

/-- R81: the same number as a sum. -/
theorem toNat_assemble (op ch : BitVec 3) (port : BitVec 4) (idx : BitVec 3) (al : Bool) (arg : BitVec 2) :
    (assemble op ch port idx al arg).toNat =
      op.toNat * 2 ^ 13 + ch.toNat * 2 ^ 10 + port.toNat * 2 ^ 6 + idx.toNat * 2 ^ 3 + al.toNat * 2 ^ 2 + arg.toNat := by
  simp only [assemble_eq_append, BitVec.toNat_cast, toNat_append_add, BitVec.toNat_ofBool]
  ring

/-- R86, R87: an `arg` that is one bit, as a number. -/
@[simp] theorem toNat_zero_append_ofBool (b : Bool) : (0#1 ++ BitVec.ofBool b).toNat = b.toNat := by
  cases b <;> rfl

@[simp] theorem toNat_chBits (c : Chan) : (chBits c).toNat = c.val := rfl
@[simp] theorem toNat_portBits (p : PortNo) : (portBits p).toNat = p.val := rfl
@[simp] theorem toNat_idxBits (i : PinIdx) : (idxBits i).toNat = i.val := rfl

/-- R81: the operation of a word as a number. -/
theorem toNat_opField (w : CmdWord) : (opField w).toNat = w.toNat / 2 ^ 13 := by
  have hw := w.isLt
  rw [opField, BitVec.extractLsb'_toNat, Nat.shiftRight_eq_div_pow]
  omega

/-- R83: the fields of a word as numbers. -/
theorem bindFields_fields (w : CmdWord) : Machine.bindFields w (chField w) (pinField w) (alField w) := by
  have hfield (k n : Nat) : (w.extractLsb' k n).toNat = w.toNat / 2 ^ k % 2 ^ n := by
    rw [BitVec.extractLsb'_toNat, Nat.shiftRight_eq_div_pow]
  exact ⟨hfield 10 3, hfield 6 4, hfield 3 3, Nat.toNat_testBit _ 2⟩

/-- A zero field has only zero bits. -/
theorem getLsbD_of_extractLsb'_eq_zero {w : CmdWord} {k n j : Nat} (h : w.extractLsb' k n = 0#n) (hk : k ≤ j) (hj : j < k + n) :
    w.getLsbD j = false := by
  have hbit := congrArg (·.getLsbD (j - k)) h
  simpa [show j - k < n by omega, Nat.add_sub_cancel' hk] using hbit

/-- A field inside a zero field is zero. -/
theorem extractLsb'_eq_zero_of_subfield {w : CmdWord} {k n a m : Nat} (h : w.extractLsb' k n = 0#n) (hk : k ≤ a)
    (hn : a + m ≤ k + n) : w.extractLsb' a m = 0#m := by
  refine BitVec.eq_of_getLsbD_eq fun j hj => ?_
  simp [hj, getLsbD_of_extractLsb'_eq_zero h (j := a + j) (by omega) (by omega)]

/-- R90: where a mask has the operation's bits and the `n` bits from `k` on, a word of the operation passes it exactly when those `n`
bits are zero. -/
theorem and_mask_eq_iff {w bits mask : CmdWord} {op : BitVec 3} (hop : opField w = op) (k n : Nat) (hk : k + n ≤ 13 := by decide)
    (hbits : ∀ j < 16, bits.getLsbD j = (decide (13 ≤ j) && op.getLsbD (j - 13)) := by decide)
    (hmask : ∀ j < 16, mask.getLsbD j = decide (13 ≤ j ∨ k ≤ j ∧ j < k + n) := by decide) :
    w &&& mask = bits ↔ w.extractLsb' k n = 0#n := by
  constructor
  · intro h
    refine BitVec.eq_of_getLsbD_eq fun j hj => ?_
    have hbit := congrArg (·.getLsbD (k + j)) h
    have hlow : ¬ 13 ≤ k + j := by omega
    simpa [hmask (k + j) (by omega), hbits (k + j) (by omega), hj, hlow] using hbit
  · intro hz
    refine BitVec.eq_of_getLsbD_eq fun j hj => ?_
    rw [BitVec.getLsbD_and, hmask j hj, hbits j hj, ← hop, opField, BitVec.getLsbD_extractLsb']
    by_cases hhigh : 13 ≤ j
    · simp [hhigh, show j - 13 < 3 by omega, Nat.add_sub_cancel' hhigh]
    · by_cases hin : k ≤ j ∧ j < k + n
      · simp [hhigh, getLsbD_of_extractLsb'_eq_zero hz hin.1 hin.2]
      · simp [hhigh, hin]

/-- R85: an `arg` as a number. -/
theorem argField_eq_iff (w : CmdWord) (a : BitVec 2) : argField w = a ↔ w.toNat % 4 = a.toNat := by
  rw [← BitVec.toNat_inj, argField, BitVec.extractLsb'_toNat]; rfl

/-- R82: the eight values of `op`. -/
theorem opField_cases (w : CmdWord) :
    opField w = 0b000 ∨ opField w = 0b001 ∨ opField w = 0b010 ∨ opField w = 0b011 ∨ opField w = 0b100 ∨ opField w = 0b101 ∨
      opField w = 0b110 ∨ opField w = 0b111 := by
  generalize opField w = op
  revert op; decide

/-- R85: the four values of `arg`. -/
theorem argField_cases (w : CmdWord) : argField w = 0b00 ∨ argField w = 0b01 ∨ argField w = 0b10 ∨ argField w = 0b11 := by
  generalize argField w = arg
  revert arg; decide

/-! What the decoder answers for each operation (R84 to R89), the required zeros as one field of the word. -/

section Operations

variable {w : CmdWord}

theorem decodeWord_of_bindOut (h : opField w = 0b000) : decodeWord w =
    if w.extractLsb' 0 2 ≠ 0#2 then .error .reservedField else .ok (.bindOut (chField w) (pinField w) (alField w)) := by
  rw [decodeWord, h]; rfl

theorem decodeWord_of_bindTri (h : opField w = 0b001) : decodeWord w =
    if w.extractLsb' 0 2 ≠ 0#2 then .error .reservedField else .ok (.bindTri (chField w) (pinField w) (alField w)) := by
  rw [decodeWord, h]; rfl

theorem decodeWord_of_bindIn (h : opField w = 0b010) : decodeWord w =
    if w.extractLsb' 1 1 ≠ 0#1 then .error .reservedField
    else .ok (.bindIn (chField w) (pinField w) (alField w) (w.getLsbD 0)) := by
  have hbit : w.extractLsb' 1 1 ≠ 0#1 ↔ w.getLsbD 1 = true := by
    rw [← Bool.not_eq_false, not_iff_not]
    constructor
    · exact fun hz => getLsbD_of_extractLsb'_eq_zero hz (by decide) (by decide)
    · intro hb
      refine BitVec.eq_of_getLsbD_eq fun j hj => ?_
      obtain rfl : j = 0 := by omega
      rw [BitVec.getLsbD_extractLsb', hb]; rfl
  simp [decodeWord, h, hbit]

theorem decodeWord_of_write (h : opField w = 0b011) : decodeWord w =
    if w.extractLsb' 1 9 ≠ 0#9 then .error .reservedField else .ok (.write (chField w) (w.getLsbD 0)) := by
  simp [decodeWord, h]

theorem decodeWord_of_triWrite (h : opField w = 0b100) : decodeWord w =
    if w.extractLsb' 2 8 ≠ 0#8 then .error .reservedField
    else if argField w = 0b11 then .error .reservedLevel
    else .ok (.triWrite (chField w) (if argField w = 0b00 then .low else if argField w = 0b01 then .high else .highZ)) := by
  obtain ha | ha | ha | ha := argField_cases w <;> simp [decodeWord, h, levelOfArg, ha]

theorem decodeWord_of_read (h : opField w = 0b101) : decodeWord w =
    if w.extractLsb' 0 10 ≠ 0#10 then .error .reservedField else .ok (.read (chField w)) := by
  simp [decodeWord, h]

theorem decodeWord_of_reserved (h : opField w = 0b110 ∨ opField w = 0b111) : decodeWord w = .error .illegalOp := by
  obtain h | h := h <;> simp [decodeWord, h]

/-- A word that decodes passes its operation's check of the required zeros. -/
theorem zero_of_decodeWord_ok {n : Nat} {z : BitVec n} {r : Except DecodeFault Instr} {i : Instr}
    (hdec : decodeWord w = if z ≠ 0#n then .error .reservedField else r) (h : decodeWord w = .ok i) :
    z = 0#n ∧ r = .ok i := by
  rw [hdec] at h
  split_ifs at h with hz
  exact ⟨not_not.1 hz, h⟩

/-- R90: for a word of a row, failing the mask is failing the decoder's check of the required zeros. -/
theorem row_of_decodeWord {bits mask : CmdWord} {n : Nat} {z : BitVec n} {r : Except DecodeFault Instr} {G : Prop}
    (hmask : w &&& mask = bits ↔ z = 0#n) (hdec : decodeWord w = if z ≠ 0#n then .error .reservedField else r)
    (hG : decodeWord w = r → G) :
    if w &&& mask ≠ bits then decodeWord w = .error .reservedField else G := by
  by_cases hz : z = 0#n
  · rw [if_neg (not_not.2 (hmask.2 hz))]
    exact hG (hdec.trans (if_neg (not_not.2 hz)))
  · rw [if_pos (mt hmask.1 hz)]
    exact hdec.trans (if_pos hz)

/-- R90: the same where the operation is not TRI.WRITE, whose reserved level no other operation has. -/
theorem row_of_decodeWord_of_ne_triWrite {bits mask : CmdWord} {n op : Nat} {z : BitVec n} {r : Except DecodeFault Instr}
    {P A G : Prop} [Decidable P] (hmask : w &&& mask = bits ↔ z = 0#n)
    (hdec : decodeWord w = if z ≠ 0#n then .error .reservedField else r) (hG : decodeWord w = r → G)
    (hop : op ≠ 4 := by decide) :
    if w &&& mask ≠ bits then decodeWord w = .error .reservedField else if op = 4 ∧ P then A else G :=
  row_of_decodeWord hmask hdec fun h => (if_neg fun h4 => hop h4.1).mpr (hG h)

end Operations

/-- A word from its own channel and the other fields' values. -/
theorem assemble_of_fields {w : CmdWord} {op idx : BitVec 3} {port : BitVec 4} {al : Bool} {arg : BitVec 2}
    (hop : opField w = op) (hport : w.extractLsb' 6 4 = port) (hidx : w.extractLsb' 3 3 = idx) (hal : alField w = al)
    (harg : argField w = arg) : assemble op (chBits (chField w)) port idx al arg = w := by
  subst hop hport hidx hal harg
  exact assemble_fields w

/-- R86, R87: an `arg` is its upper bit and the bit that is the pull-up or the level. -/
theorem argField_eq_append (w : CmdWord) : argField w = w.extractLsb' 1 1 ++ BitVec.ofBool (w.getLsbD 0) := by
  refine BitVec.eq_of_getLsbD_eq fun j hj => ?_
  rw [argField, BitVec.getLsbD_extractLsb', BitVec.getLsbD_append]
  interval_cases j <;> simp

/-- A word of an operation without pin and polarity, from its own channel and its `arg` (R84). -/
theorem assemble_of_zero_fields {w : CmdWord} {op : BitVec 3} {k n : Nat} {arg : BitVec 2} (hop : opField w = op)
    (hz : w.extractLsb' k n = 0#n) (harg : argField w = arg) (hk : k ≤ 2 := by decide) (hn : 10 ≤ k + n := by decide) :
    assemble op (chBits (chField w)) 0 0 false arg = w :=
  assemble_of_fields hop (extractLsb'_eq_zero_of_subfield hz (by omega) (by omega))
    (extractLsb'_eq_zero_of_subfield hz (by omega) (by omega)) (getLsbD_of_extractLsb'_eq_zero hz hk (by omega)) harg

/-- R84, R88: a word that decodes to a command is the command's word. -/
theorem word_of_decodeWord {w : CmdWord} {i : Instr} (h : decodeWord w = .ok i) : i.word = w := by
  have harg (hz : w.extractLsb' 1 1 = 0#1) : argField w = 0#1 ++ BitVec.ofBool (w.getLsbD 0) := hz ▸ argField_eq_append w
  obtain hop | hop | hop | hop | hop | hop | hop := opField_cases w
  · obtain ⟨hz, ⟨⟩⟩ := zero_of_decodeWord_ok (decodeWord_of_bindOut hop) h
    exact assemble_of_fields hop rfl rfl rfl hz
  · obtain ⟨hz, ⟨⟩⟩ := zero_of_decodeWord_ok (decodeWord_of_bindTri hop) h
    exact assemble_of_fields hop rfl rfl rfl hz
  · obtain ⟨hz, ⟨⟩⟩ := zero_of_decodeWord_ok (decodeWord_of_bindIn hop) h
    exact assemble_of_fields hop rfl rfl rfl (harg hz)
  · obtain ⟨hz, ⟨⟩⟩ := zero_of_decodeWord_ok (decodeWord_of_write hop) h
    exact assemble_of_zero_fields hop hz (harg (extractLsb'_eq_zero_of_subfield hz (by decide) (by decide)))
  · obtain ⟨hz, hlevel⟩ := zero_of_decodeWord_ok (decodeWord_of_triWrite hop) h
    split_ifs at hlevel with h3 h0 h1 <;> cases hlevel <;> refine assemble_of_zero_fields hop hz ?_
    · exact h0
    · exact h1
    · exact (((argField_cases w).resolve_left h0).resolve_left h1).resolve_right h3
  · obtain ⟨hz, ⟨⟩⟩ := zero_of_decodeWord_ok (decodeWord_of_read hop) h
    exact assemble_of_zero_fields hop hz (extractLsb'_eq_zero_of_subfield hz (by decide) (by decide))
  · cases (decodeWord_of_reserved hop).symm.trans h

/-- What has a channel is a command, and its code is its word (R80). -/
theorem encode_eq_cmd_word {i : Instr} {c : Chan} (hi : i.chan? = some c) : encode i = .cmd i.word := by
  cases i with
  | tick | edge => cases hi
  | _ => rfl

/-- What has none is one of the two events (R91). -/
theorem event_of_chan?_eq_none {i : Instr} (hi : i.chan? = none) : i = .tick ∨ i = .edge := by
  cases i with
  | tick => exact .inl rfl
  | edge => exact .inr rfl
  | _ => cases hi

/-- R94: the word of BIND.IN, field by field. -/
theorem toNat_word_bindIn (c : Chan) (q : Pin) (al pu : Bool) : (Instr.bindIn c q al pu).word.toNat =
    0x4000 ||| c.val <<< 10 ||| q.port.val <<< 6 ||| q.idx.val <<< 3 ||| al.toNat <<< 2 ||| pu.toNat := by
  rw [Instr.word, encode, toNat_assemble_or]
  simp

/-- R94: the word of BIND.OUT, field by field. -/
theorem toNat_word_bindOut (c : Chan) (q : Pin) (al : Bool) : (Instr.bindOut c q al).word.toNat =
    c.val <<< 10 ||| q.port.val <<< 6 ||| q.idx.val <<< 3 ||| al.toNat <<< 2 := by
  rw [Instr.word, encode, toNat_assemble_or]
  simp

/-- R94: the button's bind, its fixed fields gathered in one number. -/
theorem toNat_word_bindButton (q : Pin) : (Instr.bindIn 0 q Config.alButton Config.puButton).word.toNat =
    0x4005 ||| q.port.val <<< 6 ||| q.idx.val <<< 3 := by
  rw [toNat_word_bindIn, show 0x4005 = 0x4000 ||| 0x4 ||| 0x1 from rfl]
  show 0x4000 ||| 0 ||| _ ||| _ ||| 0x4 ||| 0x1 = _
  rw [Nat.or_zero]
  ac_rfl

/-- R62, D40: a word is put together from its two bytes. -/
theorem wordOfBytes_bytes (w : CmdWord) : wordOfBytes (w.extractLsb' 0 8) (w.extractLsb' 8 8) = w := by
  rw [wordOfBytes, BitVec.extractLsb'_append_extractLsb'_eq_extractLsb' (by rfl), BitVec.extractLsb'_eq_self]

end Sys2Proof
end

section
/-! PROOF. The encoding: codes, bytes, words and the opcode table's rows (R80 to R94). -/

namespace Sys2Proof

/-- Settles O1: a command's code is its word, and its word decodes to it; the two event codes are TICK's and EDGE's. -/
theorem decodeEncodeAgree : Obligations.DecodeEncodeAgree := by
  unfold Obligations.DecodeEncodeAgree
  intro i
  cases hi : i.chan? with
  | none => obtain rfl | rfl := event_of_chan?_eq_none hi <;> rfl
  | some c => rw [encode_eq_cmd_word hi]; exact decodeWord_word hi

/-- Settles O2: a decoded word is the word of its command; each of the two event codes is its event's. -/
theorem decodedCodeIsTheEncoding : Obligations.DecodedCodeIsTheEncoding := by
  unfold Obligations.DecodedCodeIsTheEncoding
  intro c i h
  cases c with
  | cmd w =>
    obtain ⟨d, hi⟩ := chan?_of_decodeWord h
    rw [encode_eq_cmd_word hi, word_of_decodeWord h]
  | event code =>
    cases h
    revert code; decide

/-- Settles O3: the decoder's answer for each value of `op`, its required zeros read as the row's mask. -/
theorem decodeFollowsTableRows : Obligations.DecodeFollowsTableRows := by
  unfold Obligations.DecodeFollowsTableRows
  refine ⟨rfl, rfl, rfl, rfl, rfl, rfl, rfl, rfl, fun w => ?_⟩
  have hfields := bindFields_fields w
  have hbit : w.getLsbD 0 = decide (w.toNat % 2 = 1) := Nat.testBit_zero _
  rw [← toNat_opField, BitVec.ofNat_toNat, BitVec.setWidth_eq]
  obtain hop | hop | hop | hop | hop | hop | hop | hop := opField_cases w <;> rw [hop]
  · exact row_of_decodeWord_of_ne_triWrite (and_mask_eq_iff hop 0 2) (decodeWord_of_bindOut hop) fun hdec =>
      ⟨_, _, _, hfields, hdec⟩
  · exact row_of_decodeWord_of_ne_triWrite (and_mask_eq_iff hop 0 2) (decodeWord_of_bindTri hop) fun hdec =>
      ⟨_, _, _, hfields, hdec⟩
  · exact row_of_decodeWord_of_ne_triWrite (and_mask_eq_iff hop 1 1) (decodeWord_of_bindIn hop) fun hdec =>
      ⟨_, _, _, hfields, hbit ▸ hdec⟩
  · exact row_of_decodeWord_of_ne_triWrite (and_mask_eq_iff hop 1 9) (decodeWord_of_write hop) fun hdec =>
      ⟨_, _, _, hfields, hbit ▸ hdec⟩
  · refine row_of_decodeWord (and_mask_eq_iff hop 2 8) (decodeWord_of_triWrite hop) fun hdec => ?_
    simp only [argField_eq_iff] at hdec
    by_cases hr : w.toNat % 4 = 3
    · rw [if_pos ⟨rfl, hr⟩]
      exact hdec.trans (if_pos hr)
    · rw [if_neg fun h => hr h.2]
      exact ⟨_, _, _, hfields, hdec.trans (if_neg hr)⟩
  · exact row_of_decodeWord_of_ne_triWrite (and_mask_eq_iff hop 0 10) (decodeWord_of_read hop) fun hdec =>
      ⟨_, _, _, hfields, hdec⟩
  · exact decodeWord_of_reserved (.inl hop)
  · exact decodeWord_of_reserved (.inr hop)

/-- Settles O5: a command's two bytes are put together to its word, which decodes to it; an event's byte is its code. -/
theorem bytesDecodeAgree : Obligations.BytesDecodeAgree := by
  unfold Obligations.BytesDecodeAgree
  intro i rest
  constructor
  · intro htick hedge
    cases hi : i.chan? with
    | none => cases event_of_chan?_eq_none hi <;> contradiction
    | some c => simp [encodeBytes, encode_eq_cmd_word hi, decodeBytes, wordOfBytes_bytes, decodeWord_word hi]
  · rintro (rfl | rfl) <;> rfl

/-- Settles O28: the binds by their fields; every other word is a closed number. -/
theorem phasesIssueSpecWords : Obligations.PhasesIssueSpecWords := by
  unfold Obligations.PhasesIssueSpecWords
  refine ⟨fun cfg ph h => ?_, rfl, fun _ _ => rfl⟩
  cases ph
  case boot0 => exact congrArg some (toNat_word_bindButton _)
  case boot1 | boot2 | boot3 | boot4 => exact congrArg some (toNat_word_bindOut ..)
  case a3x | z3x =>
    rw [Machine.phaseWord]
    cases cfg.auxFollowsRelays <;> rfl
  case cmd | done => cases h
  all_goals rfl

/-- Settles O58: each word is assembled from its fields, and is their sum. -/
theorem wordsAreTheFields : Obligations.WordsAreTheFields := by
  unfold Obligations.WordsAreTheFields
  refine ⟨fun c q al => ⟨?_, ?_, fun pu => ?_⟩, fun c => ⟨fun level => ?_, ?_, ?_, ?_, ?_⟩, rfl, rfl⟩
  all_goals
    rw [Instr.word, encode, toNat_assemble]
    simp [argOfLevel, Nat.add_assoc]

/-- Settles O4: each example runs through the decoder. -/
theorem specWordsDecode : Obligations.SpecWordsDecode := by
  unfold Obligations.SpecWordsDecode
  decide

end Sys2Proof
end

section
/-! PROOF. A word that is no command stops the block before its epilogue (R88, R201, R203). -/

namespace Sys2Proof.Machine

/-- R160, R166: where its phase issues a word, LOOP has a step unless there is a fault; the phases with a test of their own issue none. -/
theorem loopEnabled_of_phaseWord {s : State} {w : CmdWord} (hf : s.fault = .none) (hw : phaseWord s.cfg s.lp = some w) :
    s.loopEnabled = true := by
  unfold State.loopEnabled
  cases hlp : s.lp <;> rw [hlp] at hw
  case s0 | a5w | b3w | b5w | b9w | done => cases hw
  case cmd k => simp [hf, show s.cfg.cmds[k]? = some w from hw]
  all_goals simp [hf]

/-- R88, R203: LOOP at a word that is no command raises its decode fault. -/
theorem loopStep_of_decode_error {s : State} {w : CmdWord} {f : DecodeFault} (hf : s.fault = .none)
    (hw : phaseWord s.cfg s.lp = some w) (hd : decodeWord w = .error f) :
    s.loopStep = .next { s with fault := .ofDecode f, faultWord := w, faultPin := none } := by
  simp [State.loopStep, loopEnabled_of_phaseWord hf hw, hw, State.issueStep, hd, raise_of_no_fault hf]

/-- R201: after a fault there is no epilogue. -/
theorem epilogue_of_fault {s : State} (h : s.fault ≠ .none) : s.epilogue = s := by
  simp [State.epilogue, h]

/-- Settles O27: the scheduled move of LOOP raises the decode fault, and its epilogue does nothing. -/
theorem illFormedWordFaults : Obligations.IllFormedWordFaults := by
  unfold Obligations.IllFormedWordFaults
  intro s w f ms hv hf hs hw hd
  have hwant : s.wanted = (.loop, { s with sched := ms }) := by simp [State.wanted, hs]
  have ha : s.wanted.2.act .loop = .next { s with sched := ms, fault := .ofDecode f, faultWord := w, faultPin := none } := by
    rw [hwant]; exact loopStep_of_decode_error hf hw hd
  have hm : s.taken = some .loop := by
    rw [State.taken, hwant]; exact chosen_of_enabled (loopEnabled_of_phaseWord hf hw)
  rw [step_of_taken hv hf hm ha, epilogue_of_fault (ofDecode_ne f)]

end Sys2Proof.Machine
end

section
/-! PROOF. The micro-steps of the commands, each as one equation under what it asks for: a check that fails (R101, R103), the bind (R104 to
R109), the drive levels (R114), the read (R118). -/

namespace Sys2Proof.Machine

section MicroSteps

variable {s : State} {i : Instr} {c : Chan} {q : Pin} {al pu : Bool} {b : Binding} {r : PortReg}

/-- R103, check 1: the channel is bound. -/
theorem bindchk_of_bound (hc : s.chanOf c ≠ none) : s.bindchk c q = some .channelRebind := by
  simp [State.bindchk, hc]

/-- R103, check 2: the port does not exist. -/
theorem bindchk_of_no_port (hc : s.chanOf c = none) (hp : s.cfg.numPorts ≤ q.port.val) : s.bindchk c q = some .pinRange := by
  simp [State.bindchk, hc, Config.pinExists, hp]

/-- R103, check 3: another channel holds the pin. -/
theorem bindchk_of_owned (hc : s.chanOf c = none) (hp : q.port.val < s.cfg.numPorts)
    (ho : ∃ c' b, c' ≠ c ∧ s.chanOf c' = some b ∧ b.pin = q) : s.bindchk c q = some .pinOwned := by
  obtain ⟨c', b, hne, hb, hq⟩ := ho
  have howned : s.pinOwned c q = true := (pinOwned_iff ..).2 ⟨c', hne, b, hb, hq⟩
  simp [State.bindchk, hc, Config.pinExists, hp, howned]

/-- R103: the three checks pass. -/
theorem bindchk_of_free (hc : s.chanOf c = none) (hp : q.port.val < s.cfg.numPorts)
    (ho : ∀ c', c' ≠ c → ∀ b, s.chanOf c' = some b → b.pin ≠ q) : s.bindchk c q = none :=
  (bindchk_none_iff ..).2 ⟨hc, decide_eq_true hp, ho⟩

/-- `μ0` of a BIND whose check fails raises the fault with the word and the pin named (R103, R202). -/
theorem execBind_of_fault {code : FaultCode} (hf : s.fault = .none) (hcip : s.cip = .idle)
    (hi : i = .bindOut c q al ∨ i = .bindTri c q al ∨ i = .bindIn c q al pu) (hk : s.bindchk c q = some code) :
    exec i s = .next { s with fault := code, faultWord := i.word, faultPin := some q } := by
  rw [← raise_of_no_fault hf]
  obtain rfl | rfl | rfl := hi
  · simp [exec, execBindOut, hf, hcip, hk]
  · simp [exec, execBindTri, hf, hcip, hk]
  · simp [exec, execBindIn, hf, hcip, hk]

/-- `μ0` of BIND.OUT binds and reads the direction register (R104). -/
theorem execBindOut_start (al : Bool) (hf : s.fault = .none) (hcip : s.cip = .idle) (hk : s.bindchk c q = none) :
    exec (.bindOut c q al) s = .next (s.bindStart (Instr.bindOut c q al).word c ⟨.out, q, al, false⟩) := by
  simp [exec, execBindOut, hf, hcip, hk]

/-- `μ0` of BIND.TRI does so too, and no level has been requested (R106). -/
theorem execBindTri_start (al : Bool) (hf : s.fault = .none) (hcip : s.cip = .idle) (hk : s.bindchk c q = none) :
    exec (.bindTri c q al) s = .next ((s.bindStart (Instr.bindTri c q al).word c ⟨.tri, q, al, false⟩).setTri c .none) := by
  simp [exec, execBindTri, hf, hcip, hk]

/-- `μ1` of BIND.TRI is that of BIND.OUT (R106). -/
theorem execBindTri_modify (hf : s.fault = .none) (hcip : s.cip = .busy (Instr.bindTri c q al).word 1 r) :
    exec (.bindTri c q al) s = .next ((s.setDir q.port (setBit r q.idx true)).setCip .idle) := by
  simp [exec, execBindTri, hf, microStep_of_busy hcip]

/-- `μ0` of BIND.IN binds and reads the direction register (R108). -/
theorem execBindIn_start (al pu : Bool) (hf : s.fault = .none) (hcip : s.cip = .idle) (hk : s.bindchk c q = none) :
    exec (.bindIn c q al pu) s = .next (s.bindStart (Instr.bindIn c q al pu).word c ⟨.inp, q, al, pu⟩) := by
  simp [exec, execBindIn, hf, hcip, hk]

/-- `μ1` of BIND.IN makes the pin float, and is the last without a pull-up (R108). -/
theorem execBindIn_float (hf : s.fault = .none) (hcip : s.cip = .busy (Instr.bindIn c q al pu).word 1 r) :
    exec (.bindIn c q al pu) s = .next ((s.setDir q.port (setBit r q.idx false)).setCip
      (if pu then .busy (Instr.bindIn c q al pu).word 2 r else .idle)) := by
  simp [exec, execBindIn, hf, microStep_of_busy hcip]

/-- `μ2` of BIND.IN with a pull-up reads the output register (R108). -/
theorem execBindIn_readOut (hf : s.fault = .none) (hcip : s.cip = .busy (Instr.bindIn c q al true).word 2 r) :
    exec (.bindIn c q al true) s = .next (s.setCip (.busy (Instr.bindIn c q al true).word 3 (s.outOf q.port))) := by
  simp [exec, execBindIn, hf, microStep_of_busy hcip]

/-- `μ3` turns the pull-up on (R109). -/
theorem execBindIn_pullUp (hf : s.fault = .none) (hcip : s.cip = .busy (Instr.bindIn c q al true).word 3 r) :
    exec (.bindIn c q al true) s = .next ((s.setOut q.port (setBit r q.idx true)).setCip .idle) := by
  simp [exec, execBindIn, hf, microStep_of_busy hcip]

/-- `μ0` of WRITE, TRI.WRITE and READ on a channel that is not of their kind raises the check's fault (R101, R202). -/
theorem exec_of_chk_error {level : Bool} {lvl : DriveLevel} {k : Kind} {f : CmdFault} (hf : s.fault = .none)
    (hcip : s.cip = .idle)
    (hi : (i = .write c level ∧ k = .out) ∨ (i = .triWrite c lvl ∧ k = .tri) ∨ (i = .read c ∧ k = .inp))
    (hk : s.chk c k = .error f) :
    exec i s = .next { s with fault := f.code, faultWord := i.word, faultPin := f.pin } := by
  rw [← raise_of_no_fault hf]
  obtain ⟨rfl, rfl⟩ | ⟨rfl, rfl⟩ | ⟨rfl, rfl⟩ := hi
  · simp [exec, execWrite, hf, hcip, hk]
  · simp [exec, execTriWrite, hf, hcip, hk]
  · simp [exec, execRead, State.readChannel, hf, hcip, hk]

section TriWrite

variable {lvl : DriveLevel}

/-- `μ0` of TRI.WRITE reads the direction register (R114). -/
theorem execTriWrite_readDir (lvl : DriveLevel) (hf : s.fault = .none) (hcip : s.cip = .idle) (hk : s.chk c .tri = .ok b) :
    exec (.triWrite c lvl) s = .next (s.setCip (.busy (Instr.triWrite c lvl).word 1 (s.dirOf b.pin.port))) := by
  simp [exec, execTriWrite, hf, hcip, hk]

/-- `μ1` writes the direction bit, and records the level (R114). -/
theorem execTriWrite_writeDir (hf : s.fault = .none) (hcip : s.cip = .busy (Instr.triWrite c lvl).word 1 r)
    (hk : s.chk c .tri = .ok b) :
    exec (.triWrite c lvl) s =
      .next (((s.setDir b.pin.port (setBit r b.pin.idx (levelDrives lvl))).setTri c (TriLast.ofLevel lvl)).setCip
        (.busy (Instr.triWrite c lvl).word 2 r)) := by
  simp [exec, execTriWrite, hf, microStep_of_busy hcip, hk]

/-- `μ2` reads the output register (R114). -/
theorem execTriWrite_readOut (hf : s.fault = .none) (hcip : s.cip = .busy (Instr.triWrite c lvl).word 2 r)
    (hk : s.chk c .tri = .ok b) :
    exec (.triWrite c lvl) s = .next (s.setCip (.busy (Instr.triWrite c lvl).word 3 (s.outOf b.pin.port))) := by
  simp [exec, execTriWrite, hf, microStep_of_busy hcip, hk]

/-- `μ3` writes the output bit (R114). -/
theorem execTriWrite_writeOut (hf : s.fault = .none) (hcip : s.cip = .busy (Instr.triWrite c lvl).word 3 r)
    (hk : s.chk c .tri = .ok b) :
    exec (.triWrite c lvl) s =
      .next ((s.setOut b.pin.port (setBit r b.pin.idx (activeLow (levelWritten lvl) b.al))).setCip .idle) := by
  simp [exec, execTriWrite, hf, microStep_of_busy hcip, hk]

/-- A TRI.WRITE on a tri-state channel completes with its pin's direction bit and `triLast` at the level's, the output bit at the level
written `^ al`, and the binding as before (R114, R115). -/
theorem execTriWrite_completes (lvl : DriveLevel) (hf : s.fault = .none) (hcip : s.cip = .idle) (hb : s.chanOf c = some b)
    (hk : b.kind = .tri) :
    ∃ s1 s2 s3 t, exec (.triWrite c lvl) s = .next s1 ∧ exec (.triWrite c lvl) s1 = .next s2 ∧
      exec (.triWrite c lvl) s2 = .next s3 ∧ exec (.triWrite c lvl) s3 = .next t ∧ t.chanOf c = some b ∧
      t.dirBit b.pin = levelDrives lvl ∧ t.outBit b.pin = activeLow (levelWritten lvl) b.al ∧
      t.triOf c = TriLast.ofLevel lvl := by
  have hc : s.chk c .tri = .ok b := (chk_ok_iff ..).2 ⟨hb, hk⟩
  refine ⟨_, _, _, _, execTriWrite_readDir lvl hf hcip hc, execTriWrite_writeDir hf rfl hc, execTriWrite_readOut hf rfl hc,
    execTriWrite_writeOut hf rfl hc, hb, ?_, ?_, ?_⟩
  · exact (dirBit_setDir_setBit s b.pin b.pin _).trans (if_pos rfl)
  · exact (outBit_setOut_setBit s b.pin b.pin _).trans (if_pos rfl)
  · exact (triOf_setTri s c c _).trans (if_pos rfl)

end TriWrite

/-- R12, R120: a sample answers one evaluation of the level and the count of draws after it. -/
theorem sample_of_levelGives {v : Bool} {d : Nat} (h : s.levelGives q v d) : s.sample q = (v, { s with draws := d }) := by
  obtain ⟨hl, rfl⟩ | ⟨hl, rfl, rfl⟩ := h
  · exact sample_of_level hl
  · exact sample_of_draw hl

/-- R120: an evaluation of the level always gives a bit. -/
theorem levelGives_sample (s : State) (q : Pin) : s.levelGives q (s.sample q).1 (s.sample q).2.draws := by
  cases hl : s.lineLevel q with
  | some v => exact .inl (by simp [sample_of_level hl, hl])
  | none => exact .inr (by simp [sample_of_draw hl, hl])

/-- READ on an input channel (R118, R119). -/
theorem execRead_of_levelGives {v : Bool} {d : Nat} (hf : s.fault = .none) (hcip : s.cip = .idle) (hb : s.chanOf c = some b)
    (hk : b.kind = .inp) (hv : s.levelGives b.pin v d) :
    exec (.read c) s = .next { s with rdLoop := v ^^ b.al, draws := d } := by
  have hread : s.readChannel c = .ok (v ^^ b.al, { s with draws := d }) :=
    (readChannel_ok_iff ..).2 ⟨b, hb, hk, by rw [sample_of_levelGives hv]; rfl⟩
  simp [exec, execRead, hf, hcip, hread]

@[simp] theorem logicalLevel_setCip (s : State) (v : Cip) (c : Chan) : (s.setCip v).logicalLevel c = s.logicalLevel c := rfl

/-- R50: the level an output or tri-state channel shows; it shows one where its pin is driven. -/
theorem logicalLevel_of_output (hb : s.chanOf c = some b) (hk : b.kind ≠ .inp) :
    s.logicalLevel c = some (if s.dirBit b.pin then some (s.outBit b.pin ^^ b.al) else none) := by
  unfold State.logicalLevel
  rw [hb]
  cases hkind : b.kind with
  | inp => exact absurd hkind hk
  | out => simp only [hkind, activeLow]
  | tri => simp only [hkind, activeLow]

/-- R104: setting its direction bit drives the pin. -/
theorem dirBit_drive (s : State) (q : Pin) : (s.setDir q.port (withBit (s.dirOf q.port) q.idx true)).dirBit q = true := by
  rw [← setBit_eq_withBit, dirBit_setDir_setBit, if_pos rfl]

/-- R105, R115: an output or tri-state channel whose pin is made driven shows the bit its register held. -/
theorem logicalLevel_drive (hb : s.chanOf c = some b) (hk : b.kind ≠ .inp) :
    (s.setDir b.pin.port (withBit (s.dirOf b.pin.port) b.pin.idx true)).logicalLevel c = some (some (s.outBit b.pin ^^ b.al)) := by
  rw [logicalLevel_of_output ((chanOf_setDir ..).trans hb) hk, dirBit_drive, if_pos rfl, outBit_setDir]

/-- R120: a driven line that nothing opposes from outside is at its `OUT` bit. -/
theorem lineLevel_of_driven (hd : s.dirBit q = true) (he : s.extOf q = .z) : s.lineLevel q = some (s.outBit q) := by
  simp [State.lineLevel, hd, he]

/-- R120: a floating line that nothing drives is at the pull-up's level, where it is on. -/
theorem lineLevel_of_floating (hd : s.dirBit q = false) (he : s.extOf q = .z) :
    s.lineLevel q = if s.outBit q then some true else none := by
  simp [State.lineLevel, hd, he]

/-- R113: writing one output bit leaves the level of every other pin as it was. -/
theorem lineLevel_setOut_setBit_of_ne (s : State) {q r : Pin} (hr : r ≠ q) (v : Bool) :
    (s.setOut q.port (setBit (s.outOf q.port) q.idx v)).lineLevel r = s.lineLevel r := by
  simp [State.lineLevel, outBit_setOut_setBit, hr]

end MicroSteps

end Sys2Proof.Machine
end

section
/-! PROOF. The commands: their faults, what they change when they complete, and what a pin shows after them (R100 to R120). -/

namespace Sys2Proof.Machine

/-- Settles O15: the three BINDs make one check, and its three failures come in the order of R103. -/
theorem bindFaultOrder : Obligations.BindFaultOrder := by
  unfold Obligations.BindFaultOrder
  intro s c q al pu i hf hcip hi
  exact ⟨fun hc => execBind_of_fault hf hcip hi (bindchk_of_bound hc),
    fun hc hp => execBind_of_fault hf hcip hi (bindchk_of_no_port hc hp),
    fun hc hp ho => execBind_of_fault hf hcip hi (bindchk_of_owned hc hp ho)⟩

/-- Settles O17: a micro-step changes the fault record, or the mux registers, `cip`, `rd_LOOP` and the count of draws. -/
theorem commandsLeaveControllerState : Obligations.CommandsLeaveControllerState := by
  unfold Obligations.CommandsLeaveControllerState
  intro i s t htick hedge h
  have hi : i.chan? ≠ none := fun hi => (event_of_chan?_eq_none hi).elim htick hedge
  obtain ⟨c, hc⟩ := Option.ne_none_iff_exists'.1 hi
  obtain ⟨k, q, -, rfl⟩ | ⟨ht, -⟩ := exec_frame hc h
  · exact ⟨rfl, rfl, rfl, rfl, rfl, rfl, rfl, rfl, rfl, rfl, rfl, rfl, rfl, rfl, rfl, rfl, rfl⟩
  · rw [ht]
    exact ⟨rfl, rfl, rfl, rfl, rfl, rfl, rfl, rfl, rfl, rfl, rfl, rfl, rfl, rfl, rfl, rfl, rfl⟩

/-- Settles O6: `μ0` and `μ1` in turn. -/
theorem bindOutCompletes : Obligations.BindOutCompletes := by
  unfold Obligations.BindOutCompletes
  intro s c q al hf hcip hc hp ho
  refine ⟨execBindOut_start al hf hcip (bindchk_of_free hc hp ho), ?_⟩
  rw [← setBit_eq_withBit]
  exact execBindOut_modify hf rfl

/-- Settles O7: `μ0` and `μ1` in turn. -/
theorem bindTriCompletes : Obligations.BindTriCompletes := by
  unfold Obligations.BindTriCompletes
  intro s c q al hf hcip hc hp ho
  refine ⟨execBindTri_start al hf hcip (bindchk_of_free hc hp ho), ?_⟩
  rw [← setBit_eq_withBit]
  exact execBindTri_modify hf rfl

/-- Settles O8: the pull-up decides whether `μ1` is the last micro-step. -/
theorem bindInCompletes : Obligations.BindInCompletes := by
  unfold Obligations.BindInCompletes
  intro s c q al pu hf hcip hc hp ho
  simp only [← setBit_eq_withBit]
  refine ⟨execBindIn_start al pu hf hcip (bindchk_of_free hc hp ho), ?_, ?_⟩
  · rintro rfl
    exact execBindIn_float hf rfl
  · rintro rfl
    exact ⟨execBindIn_float hf rfl, execBindIn_readOut hf rfl, execBindIn_pullUp hf rfl⟩

/-- Settles O9: `μ0` and `μ1` in turn. -/
theorem writeCompletes : Obligations.WriteCompletes := by
  unfold Obligations.WriteCompletes
  intro s c level b hf hcip hb hk
  have hc : s.chk c .out = .ok b := (chk_ok_iff ..).2 ⟨hb, hk⟩
  refine ⟨execWrite_read level hf hcip hc, ?_⟩
  rw [← setBit_eq_withBit]
  exact execWrite_modify hf rfl hc

/-- Settles O10: the four micro-steps in turn, for each level. -/
theorem triWriteCompletes : Obligations.TriWriteCompletes := by
  unfold Obligations.TriWriteCompletes
  intro s c lvl b hf hcip hb hk
  have hc : s.chk c .tri = .ok b := (chk_ok_iff ..).2 ⟨hb, hk⟩
  simp only [← setBit_eq_withBit]
  refine ⟨execTriWrite_readDir lvl hf hcip hc, ?_, execTriWrite_readOut hf rfl hc, ?_⟩
  · cases lvl <;> exact execTriWrite_writeDir hf rfl hc
  · cases lvl <;> exact execTriWrite_writeOut hf rfl hc

/-- Settles O11: READ is one sample of its pin. -/
theorem readCompletes : Obligations.ReadCompletes := by
  unfold Obligations.ReadCompletes
  exact fun s c b v d => execRead_of_levelGives

/-- Settles O16: the two faults are those of the channel check, and a command that passes it raises none. -/
theorem channelCheckFaults : Obligations.ChannelCheckFaults := by
  unfold Obligations.ChannelCheckFaults
  intro s c level lvl i k hf hcip hi
  refine ⟨fun hc => exec_of_chk_error hf hcip hi ((chk_error_iff ..).2 (.inl ⟨hc, rfl⟩)),
    fun b hb hk => exec_of_chk_error hf hcip hi ((chk_error_iff ..).2 (.inr ⟨b, hb, hk, rfl⟩)), fun b hb hk => ?_⟩
  have hc : s.chk c k = .ok b := (chk_ok_iff ..).2 ⟨hb, hk⟩
  refine ⟨hc, ?_⟩
  obtain ⟨rfl, rfl⟩ | ⟨rfl, rfl⟩ | ⟨rfl, rfl⟩ := hi
  · exact ⟨_, execWrite_read level hf hcip hc, hf⟩
  · exact ⟨_, execTriWrite_readDir lvl hf hcip hc, hf⟩
  · exact ⟨_, execRead_of_levelGives hf hcip hb hk (levelGives_sample s b.pin), hf⟩

/-- Settles O20: the write changes one output bit, and another pin's level and READ do not depend on it. -/
theorem siblingPreserved : Obligations.SiblingPreserved := by
  unfold Obligations.SiblingPreserved
  intro s a level ba hf hcip hba hk
  have hc : s.chk a .out = .ok ba := (chk_ok_iff ..).2 ⟨hba, hk⟩
  refine ⟨_, _, execWrite_read level hf hcip hc, execWrite_modify hf rfl hc, fun q hq => ?_⟩
  have hlevel := lineLevel_setOut_setBit_of_ne s hq (activeLow level ba.al)
  refine ⟨(outBit_setOut_setBit ..).trans (if_neg hq), rfl, hlevel, ?_⟩
  rintro c b x hb hin rfl hx
  exact ⟨execRead_of_levelGives hf hcip hb hin (.inl ⟨hx, rfl⟩),
    execRead_of_levelGives hf rfl hb hin (.inl ⟨hlevel.trans hx, rfl⟩)⟩

/-- Settles O21: HIGH_Z clears the direction bit and leaves the output bit at `0 ^ al`; setting the direction bit again leaves it there. -/
theorem highZWritesLogicalLow : Obligations.HighZWritesLogicalLow := by
  unfold Obligations.HighZWritesLogicalLow
  intro s c b hf hcip hb hk
  obtain ⟨s1, s2, s3, t, h1, h2, h3, h4, hb', hd, ho, htri⟩ := execTriWrite_completes .highZ hf hcip hb hk
  replace ho : t.outBit b.pin = b.al := ho.trans (Bool.false_xor _)
  have hout : b.kind ≠ .inp := by rw [hk]; decide
  refine ⟨s1, s2, s3, t, h1, h2, h3, h4, hd, ho, htri, ?_, fun he => ?_, fun he => ⟨?_, ?_⟩⟩
  · rw [logicalLevel_of_output hb' hout, hd]
    rfl
  · rw [lineLevel_of_floating hd he, ho]
  · rw [lineLevel_of_driven (dirBit_drive t b.pin) he, outBit_setDir, ho]
  · rw [logicalLevel_drive hb' hout, ho, Bool.xor_self]

/-- Settles O23: the bind drives the pin and leaves its output bit alone. -/
theorem bindShowsStaleLevel : Obligations.BindShowsStaleLevel := by
  unfold Obligations.BindShowsStaleLevel
  rintro s c q al i hf hcip hc hp ho (rfl | rfl)
  · obtain ⟨h1, h2⟩ := bindOutCompletes s c q al hf hcip hc hp ho
    refine ⟨_, _, h1, h2, ?_⟩
    rw [logicalLevel_setCip]
    exact logicalLevel_drive (b := ⟨.out, q, al, false⟩) (by simp [chanOf_setChan]) nofun
  · obtain ⟨h1, h2⟩ := bindTriCompletes s c q al hf hcip hc hp ho
    refine ⟨_, _, h1, h2, ?_⟩
    rw [logicalLevel_setCip]
    exact logicalLevel_drive (b := ⟨.tri, q, al, false⟩) (by simp [chanOf_setChan]) nofun

/-- Settles O24: the table's rows are the branches of `lineLevel`. -/
theorem lineLevelTable : Obligations.LineLevelTable := by
  unfold Obligations.LineLevelTable
  refine fun s q => ⟨by simp [State.inOf], fun hd => ⟨?_, ?_⟩, fun hd => ⟨?_, ?_, ?_, ?_⟩⟩
  · rintro (he | ⟨he, ho⟩ | ⟨he, ho⟩)
    · exact lineLevel_of_driven hd he
    all_goals simp [State.lineLevel, hd, he, ho]
  · rintro (⟨he, ho⟩ | ⟨he, ho⟩) <;> simp [State.lineLevel, hd, he, ho]
  · intro he; simp [State.lineLevel, hd, he]
  · intro he; simp [State.lineLevel, hd, he]
  · intro he ho; rw [lineLevel_of_floating hd he, if_pos ho]
  · intro he ho; rw [lineLevel_of_floating hd he, if_neg (by simp [ho])]

end Sys2Proof.Machine
end

section
/-! PROOF. A step as its move's answer with the epilogue: LOOP's micro-step of a decoded command (R100, R160), and the pin the contention
check records (R121, R52). -/

namespace Sys2Proof.Machine

/-- R69, R204: a step is the chosen move's answer, with the epilogue on a next state. -/
theorem step_eq_withEpilogue {s : State} {m : Move} (hv : s.cfg.valid = true) (hf : s.fault = .none) (hm : s.taken = some m) :
    step s = withEpilogue (s.wanted.2.act m) := by
  unfold State.taken at hm
  simp [step, State.blockStep, hv, hf, State.moveStep, hm]

/-- R100, R160: LOOP at a word that decodes runs one micro-step of the command. -/
theorem loopStep_of_decode_ok {s : State} {w : CmdWord} {i : Instr} (hf : s.fault = .none)
    (hw : phaseWord s.cfg s.lp = some w) (hd : decodeWord w = .ok i) :
    s.loopStep = mapNext State.afterMicroStep (exec i s) := by
  unfold State.loopStep
  rw [if_pos (loopEnabled_of_phaseWord hf hw), hw]
  simp only [State.issueStep, hd]
  cases exec i s <;> rfl

/-- R160, R201: LOOP goes to the next phase when the micro-step has raised no fault and no command is in progress after it. -/
theorem afterMicroStep_eq_ite (s : State) :
    s.afterMicroStep = if s.fault = .none ∧ s.cip = .idle then s.goto (nextPhase s.cfg s.lp) else s := by
  unfold State.afterMicroStep
  by_cases hf : s.fault = .none
  · cases hc : s.cip <;> simp [hf]
  · simp [hf]

/-- Settles O25: LOOP's turn is taken, and its step is the micro-step and the move to the next phase. -/
theorem stepRunsDecodedCommand : Obligations.StepRunsDecodedCommand := by
  unfold Obligations.StepRunsDecodedCommand
  intro s w i ms hv hf hs hw hd
  have hwant : s.wanted = (.loop, { s with sched := ms }) := by simp [State.wanted, hs]
  have hm : s.taken = some .loop := by
    rw [State.taken, hwant]
    exact chosen_of_enabled (loopEnabled_of_phaseWord hf hw)
  have hstep : step s = withEpilogue (mapNext State.afterMicroStep (exec i { s with sched := ms })) := by
    rw [step_eq_withEpilogue hv hf hm, hwant]
    exact congrArg withEpilogue (loopStep_of_decode_ok hf hw hd)
  refine ⟨fun t ht => ?_, fun r hr => ?_⟩
  · rw [hstep, ht, ← apply_ite State.epilogue, ← afterMicroStep_eq_ite]
    rfl
  · rw [hstep, hr]
    rfl

/-- R121: what the contention check asks of a pin is that it is opposed. -/
theorem opposed_iff (s : State) (q : Pin) : s.opposed q ↔ (s.cfg.pinExists q && s.contends q) = true := by
  unfold State.opposed State.contends Config.pinExists
  cases s.extOf q <;> simp

/-- The contention check searches the pins in the order of R52: none comes before a lower one. -/
theorem pairwise_allPins : allPins.Pairwise fun q r => ¬ pinLe r q := by
  simp only [allPins, List.pairwise_flatMap, List.pairwise_map, List.mem_map]
  refine ⟨fun p _ => ?_, ?_⟩
  · exact (List.pairwise_lt_finRange 8).imp fun h => by simpa [pinLe] using h
  · refine (List.pairwise_lt_finRange 16).imp ?_
    rintro p p' h _ ⟨i, -, rfl⟩ _ ⟨j, -, rfl⟩
    simp [pinLe, h.le, h.ne']

/-- R121, R52: the contention check finds the lowest opposed pin. -/
theorem contendedPin_of_lowest {s : State} {q : Pin} (hq : s.opposed q) (hlow : ∀ r, s.opposed r → pinLe q r) :
    s.contendedPin = some q := by
  cases hfound : s.contendedPin with
  | none => exact absurd hq (not_opposed hfound q)
  | some r =>
    obtain ⟨hr, before, after, hsplit, hbefore⟩ := List.find?_eq_some_iff_append.1 hfound
    have hle : pinLe q r := hlow r ((opposed_iff s r).2 hr)
    have hmem : q ∈ before ++ r :: after := hsplit ▸ mem_allPins q
    obtain hq' | hq' := List.mem_append.1 hmem
    · have hpassed := hbefore q hq'
      rw [(opposed_iff s q).1 hq] at hpassed
      cases hpassed
    obtain rfl | hq' := List.mem_cons.1 hq'
    · rfl
    have hsorted := (List.pairwise_append.1 (hsplit ▸ pairwise_allPins)).2.1
    exact absurd hle (List.rel_of_pairwise_cons hsorted hq')

/-- Settles O38: where no pin is opposed the check finds none, else the lowest one. -/
theorem contentionFaults : Obligations.ContentionFaults := by
  unfold Obligations.ContentionFaults
  intro s u m hv hf hm ha hu
  rw [step_of_taken hv hf hm ha]
  refine ⟨fun q hq hlow => ?_, fun hnone => ?_⟩
  · simp [State.epilogue, hu, contendedPin_of_lowest hq hlow, raise_of_no_fault hu]
  · simp [State.epilogue, hu, (contendedPin_eq_none_iff_not_opposed u).2 hnone]

end Sys2Proof.Machine
end

section
/-! PROOF. The two handlers as one equation each (R142, R146, R147), and the edge detector after any agent's move (R145). -/

namespace Sys2Proof.Machine

section Handlers

variable {s : State} {b : Binding} {q : Pin} {v : Bool} {d : Nat}

/-- R146: EDGE with an edge pending and `c0` an input. -/
theorem execEdge_of_levelGives (hf : s.fault = .none) (hp : 0 < s.edgePending) (hb : s.chanOf 0 = some b)
    (hk : b.kind = .inp) (hv : s.levelGives b.pin v d) :
    exec .edge s = .next { s with
      edgePending := s.edgePending - 1, rdEdge := v ^^ b.al, pressed := s.pressed || (v ^^ b.al), draws := d } := by
  have hread : s.readChannel buttonChan = .ok (v ^^ b.al, { s with draws := d }) :=
    (readChannel_ok_iff ..).2 ⟨b, hb, hk, by rw [sample_of_levelGives hv]; rfl⟩
  simp [exec, execEdge, hf, hp.ne', hread, State.latchPress]

/-- R120: a floating line with its pull-up on is low exactly where it is pulled low. -/
theorem lineLevel_of_pullUp (hd : s.dirBit q = false) (ho : s.outBit q = true) :
    s.lineLevel q = some (!decide (s.extOf q = .l)) := by
  cases he : s.extOf q <;> simp [State.lineLevel, hd, ho, he]

/-- R147: EDGE with the button an active-low input with its pull-up. -/
theorem execEdge_of_pullUp (hf : s.fault = .none) (hp : 0 < s.edgePending) (hb : s.chanOf 0 = some ⟨.inp, q, true, true⟩)
    (hd : s.dirBit q = false) (ho : s.outBit q = true) :
    exec .edge s = .next { s with
      edgePending := s.edgePending - 1
      rdEdge := decide (s.extOf q = .l)
      pressed := s.pressed || decide (s.extOf q = .l) } := by
  simpa using execEdge_of_levelGives hf hp hb rfl (.inl ⟨lineLevel_of_pullUp hd ho, rfl⟩)

/-- R145: while interrupts are enabled the detector remembers the level it finds, and counts it where it is a change. -/
theorem edgeDetect_of_levelGives (hi : s.ien = true) (hv : s.levelGives s.cfg.pinButton v d) :
    s.edgeDetect = { s with
      edgePending := if v = s.btnLast then s.edgePending else s.edgePending + 1, btnLast := v, draws := d } := by
  simp only [State.edgeDetect, hi, if_true, sample_of_levelGives hv]
  split
  · rename_i h; rw [h]
  · rfl

/-- R39: while they are not it does nothing. -/
theorem edgeDetect_of_ien_false (hi : s.ien = false) : s.edgeDetect = s := by
  simp [State.edgeDetect, hi]

end Handlers

/-- Settles O12: the handler's decrement, as a number, stops at 0. -/
theorem tickDecrements : Obligations.TickDecrements := by
  unfold Obligations.TickDecrements
  refine ⟨rfl, fun s => ⟨fun hf hp => ⟨decrement s.countdown, decrement_toNat _, ?_⟩, fun hf hp => ?_,
    fun hf => running_of_fault hf _⟩⟩
  all_goals simp [exec, execTick, hf, hp]

/-- Settles O13: a latch that is set stays set, and one that is not takes the level read. -/
theorem edgeLatches : Obligations.EdgeLatches := by
  unfold Obligations.EdgeLatches
  refine fun s hf => ⟨fun b v d hp hb hk hv => ?_, fun hp => ?_⟩
  · rw [execEdge_of_levelGives hf hp hb hk hv]
    cases v ^^ b.al <;> simp
  · simp [exec, execEdge, hf, hp]

/-- Settles O14: the pull-up determines the level that EDGE reads. -/
theorem buttonReadsActiveLow : Obligations.ButtonReadsActiveLow := by
  unfold Obligations.ButtonReadsActiveLow
  exact fun s q => execEdge_of_pullUp

/-- Settles O39: without contention the epilogue is the edge detector. -/
theorem edgeDetectorCounts : Obligations.EdgeDetectorCounts := by
  unfold Obligations.EdgeDetectorCounts
  intro s u m v d hv hf hm ha hu hq hl
  have hstep : step s = .next u.edgeDetect := (contentionFaults s u m hv hf hm ha hu).2 hq
  refine ⟨fun hi hne => ?_, fun hi heq => ?_, fun hi => ?_⟩
  · rw [hstep, edgeDetect_of_levelGives hi hl, if_neg hne]
  · subst heq
    rw [hstep, edgeDetect_of_levelGives hi hl, if_pos rfl]
  · rw [hstep, edgeDetect_of_ien_false hi]

end Sys2Proof.Machine
end

section
/-! PROOF. The tick schedule (R141, R186): only the time advance moves time and the next tick. -/

namespace Sys2Proof.Machine

/-- R48: no move but the time advance writes the time and the next tick; none writes the configuration. -/
theorem act_of_ne_advance {s t : State} {m : Move} (hm : m ≠ .advance) (h : s.act m = .next t) :
    t.cfg = s.cfg ∧ t.now = s.now ∧ t.nextTick = s.nextTick := by
  cases m with
  | loop => exact ⟨(loopKeeps h).cfg, (loopKeeps h).now, (loopKeeps h).nextTick⟩
  | tick =>
    obtain ⟨-, -, rfl⟩ := execTick_next h
    exact ⟨rfl, rfl, rfl⟩
  | edge =>
    obtain ⟨-, ⟨k, w, q, -, rfl⟩ | ⟨-, ht⟩⟩ := edge_frame h
    · exact ⟨rfl, rfl, rfl⟩
    · rw [ht]
      exact ⟨rfl, rfl, rfl⟩
  | advance => exact absurd rfl hm
  | setExt q e =>
    rw [setExtStep_next h]
    exact ⟨rfl, rfl, rfl⟩

/-- The schedule is the configuration's, the time's and the next tick's alone. -/
theorem tickInv_congr {s t : State} (hc : t.cfg = s.cfg) (hn : t.now = s.now) (hk : t.nextTick = s.nextTick) :
    t.tickInv ↔ s.tickInv := by
  unfold State.tickInv
  rw [hc, hn, hk]

/-- R186: the time advance answers one millisecond more, with the tick whose time has come. -/
theorem eq_tickOver_of_advanceStep {s t : State} (h : s.advanceStep = .next t) : t = s.tickOver := by
  unfold State.advanceStep at h
  split at h <;> cases h
  rfl

/-- R141: one millisecond keeps the schedule; a tick whose time has come puts the next one a period later. -/
theorem tickInv_tickOver {s : State} (hv : s.cfg.valid = true) (h : s.tickInv) : s.tickOver.tickInv := by
  obtain ⟨-, -, -, -, -, -, hperiod⟩ := s.cfg.valid_iff.1 hv
  obtain ⟨hahead, hnear, k, hk⟩ := h
  unfold State.tickOver
  split
  · rename_i hnow
    refine ⟨?_, ?_, k + 1, ?_⟩ <;> dsimp only
    · omega
    · omega
    · rw [hk, Nat.add_mul, Nat.one_mul, Nat.add_assoc]
  · exact ⟨by dsimp only; omega, by dsimp only; omega, k, hk⟩

/-- Settles O46: the time advance keeps the schedule, and no other move writes anything of it. -/
theorem tickScheduleKept : Obligations.TickScheduleKept := by
  unfold Obligations.TickScheduleKept
  intro s t hs h
  have hv := (step_next h).1
  obtain ⟨m, ms, n, u, -, ha, rfl⟩ := step_act h
  rw [tickInv_congr u.epilogue_cfg u.epilogue_now u.epilogue_nextTick]
  by_cases hm : m = .advance
  · subst hm
    rw [eq_tickOver_of_advanceStep ha]
    exact tickInv_tickOver hv hs
  · obtain ⟨hc, hn, hk⟩ := act_of_ne_advance hm ha
    exact (tickInv_congr hc hn hk).2 hs

end Sys2Proof.Machine
end

section
/-! PROOF. The level that a handler run reads (R148, R252): the button's line is followed through scheduled runs of EDGE and changes of
its drive. -/

namespace Sys2Proof.Machine

/-- Interrupts are enabled, the button is an active-low input with its pull-up, driven by `e` from outside, the edge detector has seen its
level, no pin is opposed, and `ms` are the next moves. -/
structure ButtonLine (q : Pin) (e : Drive) (ms : List Move) (s : State) : Prop where
  valid : s.cfg.valid = true
  noFault : s.fault = .none
  ien : s.ien = true
  pin : s.cfg.pinButton = q
  bound : s.chanOf 0 = some ⟨.inp, q, true, true⟩
  floats : s.dirBit q = false
  pullUp : s.outBit q = true
  ext : s.extOf q = e
  seen : s.btnLast = !decide (e = .l)
  free : ∀ r, ¬ s.opposed r
  sched : s.sched = ms

/-- R121: the drive of a floating pin opposes none. -/
theorem not_opposed_setExt {s : State} {q : Pin} (hd : s.dirBit q = false) (h : ∀ r, ¬ s.opposed r) (e : Drive) (r : Pin) :
    ¬ (s.setExt q e).opposed r := by
  by_cases hr : r = q
  · subst hr
    rintro ⟨-, hdir, -⟩
    exact absurd (hd.symm.trans hdir) nofun
  · simpa [State.opposed, extOf_setExt, hr] using h r

section

variable {q : Pin} {e : Drive} {m : Move} {ms : List Move} {s u : State}

/-- R145, R204: a scheduled move that leaves the button's line as `ButtonLine` says, but for a level that the edge detector may not have
seen: the step sees it, and counts a change. -/
theorem ButtonLine.step_of_act (hv : s.cfg.valid = true) (hf : s.fault = .none) (hs : s.sched = m :: ms)
    (ha : State.act { s with sched := ms } m = .next u)
    (hu : ButtonLine q e ms { u with btnLast := !decide (e = .l) }) :
    ∃ t, step s = .next t ∧ ButtonLine q e ms t ∧ t.pressed = u.pressed ∧ t.rdEdge = u.rdEdge ∧
      t.edgePending = if (!decide (e = .l)) = u.btnLast then u.edgePending else u.edgePending + 1 := by
  have hwant : s.wanted = (m, { s with sched := ms }) := by simp [State.wanted, hs]
  have hm : s.taken = some m := by
    rw [State.taken, hwant]
    exact chosen_of_enabled (enabled_of_act ha)
  have hlevel : u.levelGives u.cfg.pinButton (!decide (e = .l)) u.draws :=
    .inl ⟨by rw [hu.pin]; exact hu.ext ▸ lineLevel_of_pullUp (s := u) hu.floats hu.pullUp, rfl⟩
  have hstep : step s = .next u.edgeDetect := (contentionFaults s u m hv hf hm (hwant ▸ ha) hu.noFault).2 hu.free
  rw [edgeDetect_of_levelGives (s := u) hu.ien hlevel] at hstep
  exact ⟨_, hstep, { hu with }, rfl, rfl, rfl⟩

/-- R190, R145: a change of the button's drive counts one edge where it is a change between low and high, and touches neither the latch
nor `rd_EDGE`. -/
theorem ButtonLine.step_setExt {e' : Drive} (h : ButtonLine q e (.setExt q e' :: ms) s) :
    ∃ t, step s = .next t ∧ ButtonLine q e' ms t ∧ t.pressed = s.pressed ∧ t.rdEdge = s.rdEdge ∧
      t.edgePending = if e' = .l ↔ e = .l then s.edgePending else s.edgePending + 1 := by
  have hexists : s.cfg.pinExists q = true := by
    obtain ⟨-, hpins, -⟩ := s.cfg.valid_iff.1 h.valid
    exact decide_eq_true (hpins q (by simp [Config.lines, h.pin]))
  have ha : State.act { s with sched := ms } (.setExt q e') = .next (State.setExt { s with sched := ms } q e') := by
    simp [State.act, State.setExtStep, State.setExtEnabled, h.noFault, hexists]
  have hline : ButtonLine q e' ms { State.setExt { s with sched := ms } q e' with btnLast := !decide (e' = .l) } :=
    { h with
      ext := (extOf_setExt ..).trans (if_pos rfl)
      seen := rfl
      free := not_opposed_setExt h.floats h.free e'
      sched := rfl }
  obtain ⟨t, hstep, ht, hpr, hrd, hep⟩ := ButtonLine.step_of_act h.valid h.noFault h.sched ha hline
  refine ⟨t, hstep, ht, hpr, hrd, hep.trans ?_⟩
  simp [h.seen]

/-- R146, R208: a run of EDGE takes one edge, reads the level of its own instant, and adds no edge. -/
theorem ButtonLine.step_edge (h : ButtonLine q e (.edge :: ms) s) (hp : 0 < s.edgePending) :
    ∃ t, step s = .next t ∧ ButtonLine q e ms t ∧ t.edgePending = s.edgePending - 1 ∧ t.rdEdge = decide (e = .l) ∧
      t.pressed = (s.pressed || decide (e = .l)) := by
  have ha := execEdge_of_pullUp (s := { s with sched := ms }) h.noFault hp h.bound h.floats h.pullUp
  obtain ⟨t, hstep, ht, hpr, hrd, hep⟩ := ButtonLine.step_of_act (e := e) h.valid h.noFault h.sched ha
    { h with seen := rfl, sched := rfl }
  refine ⟨t, hstep, ht, hep.trans (if_pos h.seen.symm), hrd.trans ?_, hpr.trans ?_⟩ <;> rw [← h.ext] <;> rfl

end

/-- Four steps, one after another, are a run of four steps. -/
theorem run_four {s t₁ t₂ t₃ t₄ : State} (h₁ : step s = .next t₁) (h₂ : step t₁ = .next t₂) (h₃ : step t₂ = .next t₃)
    (h₄ : step t₃ = .next t₄) : core.run 4 s = .next t₄ := by
  simp [Host.Core.run, core, h₁, h₂, h₃, h₄]

/-- Settles O56: a run of EDGE latches the level of its own instant, which is high in the first order and low, then high, in the second. -/
theorem lateLevelBothOrders : Obligations.LateLevelBothOrders := by
  unfold Obligations.LateLevelBothOrders
  intro s q ms hv hf hi hpin hb hd ho he hlast hedges hpressed hq
  have hline (moves : List Move) : ButtonLine q .z moves { s with sched := moves } :=
    ⟨hv, hf, hi, hpin, hb, hd, ho, he, hlast, hq, rfl⟩
  constructor
  · obtain ⟨t₁, h₁, l₁, p₁, -, e₁⟩ := (hline (.setExt q .l :: .setExt q .z :: .edge :: .edge :: ms)).step_setExt
    obtain ⟨t₂, h₂, l₂, p₂, -, e₂⟩ := l₁.step_setExt
    have hep₂ : t₂.edgePending = 2 := by simp [e₂, e₁, hedges]
    obtain ⟨t₃, h₃, l₃, e₃, -, p₃⟩ := l₂.step_edge (by omega)
    obtain ⟨t₄, h₄, -, e₄, r₄, p₄⟩ := l₃.step_edge (by omega)
    exact ⟨t₄, run_four h₁ h₂ h₃ h₄, by simp [p₄, p₃, p₂, p₁, hpressed], by omega, r₄⟩
  · obtain ⟨t₁, h₁, l₁, -, -, e₁⟩ := (hline (.setExt q .l :: .edge :: .setExt q .z :: .edge :: ms)).step_setExt
    have hep₁ : t₁.edgePending = 1 := by simp [e₁, hedges]
    obtain ⟨t₂, h₂, l₂, e₂, -, p₂⟩ := l₁.step_edge (by omega)
    obtain ⟨t₃, h₃, l₃, p₃, -, e₃⟩ := l₂.step_setExt
    have hep₃ : t₃.edgePending = 1 := by simp [e₃, e₂, hep₁]
    obtain ⟨t₄, h₄, -, e₄, r₄, p₄⟩ := l₃.step_edge (by omega)
    exact ⟨t₄, run_four h₁ h₂ h₃ h₄, by simp [p₄, p₃, p₂], by omega, r₄⟩

end Sys2Proof.Machine
end

section
/-! PROOF. What every step keeps of the countdown and `on` (R184, R144), and of the waits (R166): LOOP's step is a command's, which moves at
most `lp` of these, or a phase's own. -/

namespace Sys2Proof.Machine

/-- What a step of LOOP that issues a command, or raises its word's decode fault, keeps of the controller's registers (R100): `lp` stays, or
goes to the next phase. -/
structure CommandStep (s t : State) : Prop where
  cfg : t.cfg = s.cfg
  countdown : t.countdown = s.countdown
  on : t.on = s.on
  now : t.now = s.now
  waitUntil : t.waitUntil = s.waitUntil
  lp : t.lp = s.lp ∨ t.lp = nextPhase s.cfg s.lp

section

variable {s t u : State} {m : Move}

/-- A command's micro-step, and the move to the next phase after it. -/
theorem commandStep_of_exec {i : Instr} {c : Chan} (hi : i.chan? = some c) (h : exec i s = .next u) :
    CommandStep s u.afterMicroStep := by
  have hu : ∀ ph, ph = s.lp ∨ ph = nextPhase s.cfg s.lp → CommandStep s (u.goto ph) := by
    intro ph hph
    obtain ⟨k, q, -, rfl⟩ | ⟨hu, -⟩ := exec_frame hi h
    · exact ⟨rfl, rfl, rfl, rfl, rfl, hph⟩
    · rw [hu]
      exact ⟨rfl, rfl, rfl, rfl, rfl, hph⟩
  obtain ⟨hcfg, -, hlp⟩ := exec_controls hi h
  obtain h | ⟨-, -, h⟩ := afterMicroStep_eq u <;> rw [h]
  · exact hu u.lp (.inl hlp)
  · exact hu _ (.inr (by rw [hcfg, hlp]))

/-- R160: a step of LOOP is a command's, or the phase's own. -/
theorem commandStep_or_phaseStep (h : s.loopStep = .next t) : CommandStep s t ∨ s.phaseStep = .next t := by
  obtain ⟨-, ⟨w, f, -, -, rfl⟩ | ⟨w, i, u, -, hd, hx, rfl⟩ | ⟨-, hx⟩⟩ := loopStep_next h
  · exact .inl (by constructor <;> simp)
  · exact .inl (commandStep_of_exec (chan?_of_decodeWord hd).choose_spec hx)
  · exact .inr hx

/-- R182: a power-off phase follows only a power-off phase, as far as commands go. -/
theorem switchingOff_of_nextPhase {cfg : Config} {ph : Phase} (h : (nextPhase cfg ph).switchingOff = true) :
    ph.switchingOff = true := by
  cases ph
  case a3 | cmd =>
    simp only [nextPhase] at h
    split at h <;> cases h
  case z3 => rfl
  all_goals exact h

/-- R174: and a phase of a press while ON only another one. -/
theorem pressWhileOn_of_nextPhase {cfg : Config} {ph : Phase} (h : (nextPhase cfg ph).pressWhileOn = true) :
    ph.pressWhileOn = true := by
  cases ph
  case a3 | z3 | cmd =>
    simp only [nextPhase] at h
    split at h <;> cases h
  all_goals exact h

/-- R184 under a command's step: `on` and the countdown stay, and the next phase asks no more than the phase. -/
theorem onInv_of_commandStep (h : CommandStep s t) (hs : s.onInv) : t.onInv := by
  unfold State.onInv at *
  rw [h.on, h.countdown]
  obtain ⟨hoff, hsw, hpress⟩ := hs
  obtain hlp | hlp := h.lp <;> rw [hlp]
  · exact ⟨hoff, hsw, hpress⟩
  · exact ⟨hoff, fun h => hsw (switchingOff_of_nextPhase h), fun h => hpress (pressWhileOn_of_nextPhase h)⟩

/-- R184 depends on `on`, the countdown and `lp` alone, and a countdown of 0 that stays 0 is enough. -/
theorem onInv_mono (hon : t.on = s.on) (hlp : t.lp = s.lp) (hc : s.countdown = 0 → t.countdown = 0) (hs : s.onInv) : t.onInv := by
  unfold State.onInv
  rw [hon, hlp]
  obtain ⟨hoff, hsw, hpress⟩ := hs
  exact ⟨fun h => hc (hoff h), fun h => hc (hsw h), hpress⟩

/-- R181, R184: the zero check goes to the power-off only with the countdown at 0. -/
theorem onInv_zeroCheck (hs : s.onInv) : s.zeroCheck.onInv := by
  unfold State.zeroCheck
  split
  · rename_i hc
    exact ⟨fun _ => hc, fun _ => hc, nofun⟩
  · exact ⟨hs.1, nofun, nofun⟩

/-- R184 under a phase's own step: the dispatch asks for `on`, the arms come with `on` set, and `on` is cleared with the countdown at 0. -/
theorem onInv_of_phaseStep (h : s.phaseStep = .next t) (hs : s.onInv) : t.onInv := by
  have ⟨hoff, hsw, hpress⟩ := hs
  cases hlp : s.lp <;> simp only [State.phaseStep, hlp, reduceCtorEq, Host.Outcome.next.injEq] at h <;> subst h
  all_goals rw [hlp] at hsw hpress
  case boot5 => exact ⟨by simpa [State.enableInterrupts] using hoff, nofun, nofun⟩
  case s0 => exact ⟨hoff, by cases s.pressed <;> nofun, by cases s.pressed <;> nofun⟩
  case s1 =>
    cases hon : s.on
    · exact ⟨fun _ => hoff hon, nofun, nofun⟩
    · exact ⟨hoff, nofun, fun _ => hon⟩
  case b6 =>
    cases s.pressed
    · exact ⟨hoff, nofun, nofun⟩
    · exact ⟨hoff, nofun, hpress⟩
  case a4 => exact ⟨nofun, nofun, nofun⟩
  case b2 | b8 => exact ⟨fun h => absurd (h.symm.trans (hpress rfl)) nofun, nofun, hpress⟩
  case z0 => exact onInv_zeroCheck hs
  case z4 => exact ⟨fun _ => hsw rfl, nofun, nofun⟩
  case z3x => exact ⟨hoff, fun _ => hsw rfl, nofun⟩
  case b3 | b3w | b4 | b5 | b5w | b9 | b9w => exact ⟨hoff, nofun, hpress⟩
  all_goals exact ⟨hoff, nofun, nofun⟩

/-- R142: the decrement leaves 0 at 0. -/
theorem decrement_of_zero {n : CountReg} (h : n = 0) : decrement n = 0 := by
  subst h; rfl

/-- R184 under every move. -/
theorem onInv_of_act (h : s.act m = .next t) (hs : s.onInv) : t.onInv := by
  cases m with
  | loop =>
    obtain hc | hp := commandStep_or_phaseStep h
    · exact onInv_of_commandStep hc hs
    · exact onInv_of_phaseStep hp hs
  | tick =>
    obtain ⟨-, -, rfl⟩ := execTick_next h
    exact onInv_mono (s := s) rfl rfl decrement_of_zero hs
  | edge =>
    obtain ⟨-, ⟨k, w, q, -, rfl⟩ | ⟨-, ht⟩⟩ := edge_frame h
    · exact hs
    · rw [ht]; exact hs
  | advance =>
    obtain ⟨-, -, -, ht⟩ := advanceStep_next h
    rw [ht]; exact hs
  | setExt q e => rw [setExtStep_next h]; exact hs

end

/-- Settles O44: each move keeps R184 and the phase facts, and the epilogue writes none of what they speak of. -/
theorem offMeansCountdownZero : Obligations.OffMeansCountdownZero := by
  unfold Obligations.OffMeansCountdownZero
  intro s t hs h
  obtain ⟨m, ms, n, u, -, hx, rfl⟩ := step_act h
  exact onInv_mono u.epilogue_on u.epilogue_lp (u.epilogue_countdown ▸ id)
    (onInv_of_act (s := { s with sched := ms, picks := n }) hx hs)

section Waits

variable {s t : State} {m : Move}

/-- R162: no command leads into a wait. -/
theorem isWait_of_nextPhase {cfg : Config} {ph : Phase} (h : (nextPhase cfg ph).isWait = true) : ph.isWait = true := by
  cases ph
  case a3 | z3 | cmd =>
    simp only [nextPhase] at h
    split at h <;> cases h
  all_goals exact h

/-- R166 speaks of the configuration, the time, the end of the wait and `lp` alone; and a phase that is not a wait asks nothing. -/
theorem waitInv_mono (hcfg : t.cfg = s.cfg) (hnow : t.now = s.now) (hw : t.waitUntil = s.waitUntil)
    (hlp : t.lp.isWait = true → s.lp.isWait = true) (hs : s.waitInv) : t.waitInv := by
  unfold State.waitInv
  rw [hcfg, hnow, hw]
  exact fun h => hs (hlp h)

/-- R166: a wait begins before its end. -/
theorem waitInv_enterWait (s : State) (d : Nat) (ph : Phase) : (s.enterWait d ph).waitInv :=
  fun _ => Nat.le_add_right_of_le (Nat.le_add_right ..)

/-- R166 under a phase's own step: only the entries lead into a wait. -/
theorem waitInv_of_phaseStep (h : s.phaseStep = .next t) : t.waitInv := by
  cases hlp : s.lp <;> simp only [State.phaseStep, hlp, reduceCtorEq, Host.Outcome.next.injEq] at h <;> subst h
  case a5 | b3 | b5 | b9 => exact waitInv_enterWait _ _ _
  case s0 | s1 | b6 => exact fun h => by rw [State.goto_lp] at h; split at h <;> cases h
  case z0 => exact fun h => by unfold State.zeroCheck at h; split at h <;> cases h
  all_goals exact nofun

/-- R186: inside a wait time advances only up to its end and its slack. -/
theorem now_lt_of_advanceEnabled (h : s.advanceEnabled = true) (hw : s.lp.isWait = true) :
    s.now + 1 ≤ s.waitUntil + s.cfg.waitSlackMs := by
  simp only [State.advanceEnabled, Bool.and_eq_true, Bool.or_eq_true, decide_eq_true_eq] at h
  obtain ⟨-, (⟨hlp, -⟩ | ⟨-, hle⟩) | hlp⟩ := h
  · rw [hlp] at hw; cases hw
  · exact hle
  · rw [hlp] at hw; cases hw

/-- R166 under every move. -/
theorem waitInv_of_act (h : s.act m = .next t) (hs : s.waitInv) : t.waitInv := by
  cases m with
  | loop =>
    obtain hc | hp := commandStep_or_phaseStep h
    · refine waitInv_mono hc.cfg hc.now hc.waitUntil (fun hw => ?_) hs
      obtain hlp | hlp := hc.lp <;> rw [hlp] at hw
      · exact hw
      · exact isWait_of_nextPhase hw
    · exact waitInv_of_phaseStep hp
  | tick =>
    obtain ⟨-, -, rfl⟩ := execTick_next h
    exact hs
  | edge =>
    obtain ⟨-, ⟨k, w, q, -, rfl⟩ | ⟨-, ht⟩⟩ := edge_frame h
    · exact hs
    · rw [ht]; exact hs
  | advance =>
    obtain ⟨-, -, -, ht⟩ := advanceStep_next h
    rw [ht]
    exact now_lt_of_advanceEnabled (enabled_of_act (m := .advance) h)
  | setExt q e => rw [setExtStep_next h]; exact hs

end Waits

/-- Settles O45: each move keeps R166, and the epilogue writes none of what it speaks of. -/
theorem waitWindowKept : Obligations.WaitWindowKept := by
  unfold Obligations.WaitWindowKept
  intro s t hs h
  obtain ⟨m, ms, n, u, -, hx, rfl⟩ := step_act h
  exact waitInv_mono u.epilogue_cfg u.epilogue_now u.epilogue_waitUntil (u.epilogue_lp ▸ id)
    (waitInv_of_act (s := { s with sched := ms, picks := n }) hx hs)

end Sys2Proof.Machine
end

section
/-! PROOF. The drive of a floating pin that no channel holds and that is not the button's (R191, R120): every part of a step commutes with
changing it, and the step leaves the pin floating. -/

namespace Sys2Proof.Machine

/-- The drives are the states' only difference, and they agree pin by pin. -/
theorem eq_of_extOf {s t : State} (ht : t = { s with ext := t.ext }) (h : ∀ r, t.extOf r = s.extOf r) : t = s := by
  have hext : t.ext = s.ext := by
    refine Vector.ext fun p hp => Vector.ext fun i hi => ?_
    exact h ⟨⟨p, hp⟩, ⟨i, hi⟩⟩
  rw [ht, hext]

/-- Of two changes of one pin's drive the second stands. -/
theorem setExt_setExt (s : State) (q : Pin) (e e' : Drive) : (s.setExt q e).setExt q e' = s.setExt q e' :=
  eq_of_extOf rfl fun r => by
    simp only [extOf_setExt]
    split <;> rfl

/-- Changes of two pins' drives commute. -/
theorem setExt_comm (s : State) {q r : Pin} (hr : r ≠ q) (e e' : Drive) :
    (s.setExt q e).setExt r e' = (s.setExt r e').setExt q e :=
  eq_of_extOf rfl fun p => by
    simp only [extOf_setExt]
    split
    · rename_i hp
      rw [if_neg (hp ▸ hr)]
    · rfl

section Invisible

variable {s t u : State} {i : Instr} {c : Chan} {q : Pin} {m : Move}

/-- The operation, begun from `s`, does the same whatever the drive `e` of `q`. -/
def Ignores (q : Pin) (e : Drive) (s : State) (op : State → Result) : Prop :=
  op (s.setExt q e) = mapNext (fun t => t.setExt q e) (op s)

/-- No channel holds the pin. -/
def State.unbound (s : State) (q : Pin) : Prop := ∀ c b, s.chanOf c = some b → b.pin ≠ q

variable (e : Drive)

/-- A fault is raised whatever the drives (R201). -/
theorem raise_setExt (s : State) (k : FaultCode) (w : CmdWord) (p : Option Pin) :
    (s.setExt q e).raise k w p = (s.raise k w p).setExt q e := by
  unfold State.raise
  rw [State.setExt_fault]
  split <;> rfl

/-- A choice that does not depend on the drive. -/
theorem ignores_ite {p : State → Prop} [DecidablePred p] {yes no : State → Result} (hp : p (s.setExt q e) ↔ p s)
    (hy : Ignores q e s yes) (hn : Ignores q e s no) : Ignores q e s fun t => if p t then yes t else no t := by
  unfold Ignores at *
  by_cases h : p s
  · simpa [h, hp] using hy
  · simpa [h, hp] using hn

/-- Whether an agent has a step at all does not depend on the drives (R201). -/
theorem ignores_running {op : State → Result} (h : Ignores q e s op) : Ignores q e s fun t => running t (op t) :=
  ignores_ite e Iff.rfl h rfl

/-- R120: a level depends on the drive of its own pin alone. -/
theorem lineLevel_setExt {r : Pin} (hr : r ≠ q) : (s.setExt q e).lineLevel r = s.lineLevel r := by
  unfold State.lineLevel
  rw [dirBit_setExt, outBit_setExt, extOf_setExt, if_neg hr]

theorem sample_setExt {r : Pin} (hr : r ≠ q) :
    (s.setExt q e).sample r = ((s.sample r).1, (s.sample r).2.setExt q e) := by
  unfold State.sample
  rw [lineLevel_setExt e hr]
  split <;> rfl

/-- R35: the micro-step a command is at does not depend on the drives. -/
theorem microStep_setExt (s : State) (w : CmdWord) : (s.setExt q e).microStep w = s.microStep w := rfl

/-- R103: nor does the bind check. -/
theorem bindchk_setExt (s : State) (c : Chan) (p : Pin) : (s.setExt q e).bindchk c p = s.bindchk c p := rfl

/-- R118: a READ samples the pin of a bound channel, which is another pin. -/
theorem readChannel_setExt (hq : s.unbound q) (c : Chan) :
    (s.setExt q e).readChannel c = (s.readChannel c).map fun v => (v.1, v.2.setExt q e) := by
  unfold State.readChannel
  rw [chk_setExt]
  cases hc : s.chk c .inp with
  | error f => rfl
  | ok b =>
    simp only [sample_setExt e (hq c b ((chk_ok_iff ..).1 hc).1)]
    rfl

/-- Every command and every handler ignores the drive: the checks and the micro-step do not depend on it, and the levels read are of other
pins. -/
theorem ignores_exec (hq : s.unbound q) (i : Instr) : Ignores q e s (exec i) := by
  cases i
  all_goals refine ignores_running (op := fun t => _) e ?_
  case bindOut | bindTri | bindIn | write | triWrite =>
    simp only [Ignores, microStep_setExt, bindchk_setExt, chk_setExt, raise_setExt]
    repeat' split
    all_goals rfl
  case read c =>
    simp only [Ignores, microStep_setExt, readChannel_setExt e hq, raise_setExt]
    obtain _ | ⟨_ | k, r⟩ := s.microStep (Instr.read c).word <;> cases s.readChannel c <;> rfl
  case tick => exact ignores_ite e Iff.rfl rfl rfl
  case edge =>
    refine ignores_ite e Iff.rfl rfl ?_
    simp only [Ignores, readChannel_setExt e hq, raise_setExt]
    cases s.readChannel buttonChan <;> rfl

/-- R100: so does the move to the next phase. -/
theorem afterMicroStep_setExt (s : State) : (s.setExt q e).afterMicroStep = s.afterMicroStep.setExt q e := by
  rw [afterMicroStep_eq_ite, afterMicroStep_eq_ite, State.setExt_fault, State.setExt_cip]
  split <;> rfl

/-- R232: `BOOT5` samples the button's pin, which is another. -/
theorem enableInterrupts_setExt (hq : s.cfg.pinButton ≠ q) : (s.setExt q e).enableInterrupts = s.enableInterrupts.setExt q e := by
  unfold State.enableInterrupts
  rw [State.setExt_cfg, sample_setExt e hq]
  rfl

/-- R181: the zero check reads no level. -/
theorem zeroCheck_setExt (s : State) : (s.setExt q e).zeroCheck = s.zeroCheck.setExt q e := by
  unfold State.zeroCheck
  rw [State.setExt_countdown]
  split <;> rfl

/-- R162: every phase that is one atomic step ignores the drive. -/
theorem ignores_phaseStep (hq : s.cfg.pinButton ≠ q) : Ignores q e s State.phaseStep := by
  unfold Ignores State.phaseStep
  rw [State.setExt_lp]
  cases s.lp
  case boot5 => exact congrArg _ (enableInterrupts_setExt e hq)
  case z0 => exact congrArg _ (zeroCheck_setExt e s)
  all_goals rfl

/-- R160: LOOP ignores the drive. -/
theorem ignores_loopStep (hb : s.cfg.pinButton ≠ q) (hq : s.unbound q) : Ignores q e s State.loopStep := by
  refine ignores_ite e Iff.rfl ?_ rfl
  unfold Ignores
  dsimp only
  rw [State.setExt_cfg, State.setExt_lp]
  split
  · unfold State.issueStep
    split
    · rw [raise_setExt]; rfl
    · rename_i i _
      rw [ignores_exec e hq i]
      cases exec i s with
      | next u => exact congrArg _ (afterMicroStep_setExt e u)
      | fault r => rfl
      | refused r => rfl
  · exact ignores_phaseStep e hb

/-- R186: the time advance does not depend on the drives. -/
theorem tickOver_setExt (s : State) : (s.setExt q e).tickOver = s.tickOver.setExt q e := by
  unfold State.tickOver
  rw [State.setExt_now, State.setExt_nextTick]
  split <;> rfl

theorem ignores_advanceStep : Ignores q e s State.advanceStep :=
  ignores_ite e Iff.rfl (congrArg _ (tickOver_setExt e s)) rfl

/-- R190: the drive of another pin is changed whatever that of `q` is. -/
theorem ignores_setExtStep {r : Pin} (hr : r ≠ q) (e' : Drive) : Ignores q e s fun t => t.setExtStep r e' :=
  ignores_ite e Iff.rfl (congrArg _ (setExt_comm s hr e e')) rfl

/-- Every move ignores the drive, but ENV's own change of it. -/
theorem ignores_act (hb : s.cfg.pinButton ≠ q) (hq : s.unbound q) (hm : ∀ e', m ≠ .setExt q e') :
    Ignores q e s fun t => t.act m := by
  cases m with
  | loop => exact ignores_loopStep e hb hq
  | tick => exact ignores_exec e hq .tick
  | edge => exact ignores_exec e hq .edge
  | advance => exact ignores_advanceStep e
  | setExt r e' => exact ignores_setExtStep e (by rintro rfl; exact hm e' rfl) e'

/-! The move leaves the pin floating, so the epilogue ignores its drive too. -/

/-- A write of another pin's direction bit (R102). -/
theorem floats_setDir_of_ne {p : Pin} (hp : p ≠ q) (hd : s.dirBit q = false) (v : Bool) :
    (s.setDir p.port (setBit (s.dirOf p.port) p.idx v)).dirBit q = false := by
  rw [dirBit_setDir_setBit, if_neg hp.symm, hd]

/-- A command writes the direction bit of its channel's pin alone: its pending read is not stale (R35). -/
theorem floats_of_exec (hi : i.chan? = some c) (hcip : s.cipOk) (hq : s.unbound q) (hd : s.dirBit q = false)
    (h : exec i s = .next t) : t.dirBit q = false := by
  cases i with
  | bindOut d p al =>
    obtain ⟨-, ⟨r, k, -, -, rfl⟩ | ⟨r, -, -, rfl⟩ | ⟨r, hm, rfl⟩⟩ := execBindOut_next h
    · rwa [dirBit_congr (State.raise_dir ..)]
    · exact hd
    · obtain ⟨-, -, hc, rfl⟩ := microOk_of_microStep_succ hi hcip hm
      exact floats_setDir_of_ne (hq _ _ hc) hd true
  | bindTri d p al =>
    obtain ⟨-, ⟨r, k, -, -, rfl⟩ | ⟨r, -, -, rfl⟩ | ⟨r, hm, rfl⟩⟩ := execBindTri_next h
    · rwa [dirBit_congr (State.raise_dir ..)]
    · exact hd
    · obtain ⟨-, -, hc, -, rfl⟩ := microOk_of_microStep_succ hi hcip hm
      exact floats_setDir_of_ne (hq _ _ hc) hd true
  | bindIn d p al pu =>
    obtain ⟨-, ⟨r, k, -, -, rfl⟩ | ⟨r, -, -, rfl⟩ | ⟨r, hm, rfl⟩ | ⟨r, -, -, rfl⟩ | ⟨r, -, -, rfl⟩⟩ := execBindIn_next h
    · rwa [dirBit_congr (State.raise_dir ..)]
    · exact hd
    · obtain ⟨-, hc, hr⟩ := microOk_of_microStep_succ hi hcip hm
      obtain rfl : r = s.dirOf p.port := by simpa using hr
      exact floats_setDir_of_ne (hq _ _ hc) hd false
    · exact hd
    · exact hd
  | write d level =>
    obtain ⟨-, ⟨r, f, -, -, rfl⟩ | ⟨r, b, -, -, rfl⟩ | ⟨r, b, -, -, rfl⟩⟩ := execWrite_next h
    · rwa [dirBit_congr (State.raise_dir ..)]
    · exact hd
    · exact hd
  | triWrite d lvl =>
    obtain ⟨-, ⟨r, f, -, -, rfl⟩ | ⟨r, b, -, -, rfl⟩ | ⟨r, b, hm, hb, rfl⟩ | ⟨r, b, -, -, rfl⟩ | ⟨r, b, -, -, rfl⟩⟩ :=
      execTriWrite_next h
    · rwa [dirBit_congr (State.raise_dir ..)]
    · exact hd
    · obtain ⟨-, b', hc, -, hr⟩ := microOk_of_microStep_succ hi hcip hm
      cases hc.symm.trans ((chk_ok_iff ..).1 hb).1
      obtain rfl : r = s.dirOf b.pin.port := by simpa using hr
      exact floats_setDir_of_ne (hq _ _ hc) hd _
    · exact hd
    · exact hd
  | read d =>
    obtain ⟨-, ⟨r, f, -, -, rfl⟩ | ⟨r, v, -, hv, rfl⟩⟩ := execRead_next h
    · rwa [dirBit_congr (State.raise_dir ..)]
    · obtain ⟨b, -, -, rfl⟩ := (readChannel_ok_iff ..).1 hv
      exact (dirBit_congr (State.sample_dir ..) q).trans hd
  | tick | edge => cases hi

/-- Every move leaves the pin floating. -/
theorem floats_of_act (hcip : s.cipOk) (hq : s.unbound q) (hd : s.dirBit q = false) (h : s.act m = .next t) :
    t.dirBit q = false := by
  by_cases hm : m = .loop
  · subst hm
    obtain ⟨-, ⟨w, f, -, -, rfl⟩ | ⟨w, i, u, -, hw, hx, rfl⟩ | ⟨-, hx⟩⟩ := loopStep_next h
    · rwa [dirBit_congr (State.raise_dir ..)]
    · obtain ⟨c, hi⟩ := chan?_of_decodeWord hw
      have hu := floats_of_exec hi hcip hq hd hx
      obtain h | ⟨-, -, h⟩ := afterMicroStep_eq u <;> rw [h]
      · exact hu
      · exact hu
    · exact (dirBit_congr (sameMux_phaseStep hx).dir q).trans hd
  · exact (dirBit_congr (act_of_ne_loop hm h).1.dir q).trans hd

/-- No move writes the configuration (R46). -/
theorem cfg_of_act (h : s.act m = .next t) : t.cfg = s.cfg := by
  by_cases hm : m = .loop
  · subst hm; exact (loopKeeps h).cfg
  · exact (act_of_ne_loop hm h).1.cfg

/-- R121: a floating pin contends with no drive. -/
theorem contendedPin_setExt (hd : s.dirBit q = false) : (s.setExt q e).contendedPin = s.contendedPin := by
  have hc (r : Pin) : (s.setExt q e).contends r = s.contends r := by
    unfold State.contends
    rw [dirBit_setExt, outBit_setExt, extOf_setExt]
    by_cases hr : r = q
    · rw [hr, hd]; rfl
    · rw [if_neg hr]
  simp only [State.contendedPin, hc, State.setExt_cfg]

/-- R145: the edge detector samples the button's pin, which is another. -/
theorem edgeDetect_setExt (hb : s.cfg.pinButton ≠ q) : (s.setExt q e).edgeDetect = s.edgeDetect.setExt q e := by
  simp only [State.edgeDetect]
  rw [State.setExt_cfg, sample_setExt e hb, State.setExt_ien, State.setExt_btnLast]
  split
  · split <;> rfl
  · rfl

/-- R204: the epilogue ignores the drive of a floating pin that is not the button's. -/
theorem epilogue_setExt (hb : s.cfg.pinButton ≠ q) (hd : s.dirBit q = false) : (s.setExt q e).epilogue = s.epilogue.setExt q e := by
  unfold State.epilogue
  rw [State.setExt_fault, contendedPin_setExt e hd]
  split
  · split
    · exact raise_setExt ..
    · exact edgeDetect_setExt e hb
  · rfl

/-! The step. -/

/-- The pin floats, no channel holds it, it is not the button's, and the command in progress is consistent. -/
structure Hidden (q : Pin) (s : State) : Prop where
  cipOk : s.cipOk
  floats : s.dirBit q = false
  notButton : s.cfg.pinButton ≠ q
  unbound : s.unbound q

/-- Choosing the move hides nothing and shows nothing. -/
theorem hidden_wanted (h : Hidden q s) : Hidden q s.wanted.2 := by
  rw [wanted_snd]
  exact ⟨h.cipOk, h.floats, h.notButton, h.unbound⟩

/-- The move asked for does not depend on the drives. -/
theorem wanted_setExt (s : State) : (s.setExt q e).wanted = (s.wanted.1, s.wanted.2.setExt q e) := by
  unfold State.wanted
  rw [State.setExt_sched]
  split <;> rfl

/-- Nor does which moves have a step. -/
theorem enabled_setExt (s : State) : (s.setExt q e).enabled = s.enabled := by
  funext m
  cases m <;> rfl

theorem chosen_setExt (s : State) (want : Move) : (s.setExt q e).chosen want = s.chosen want := by
  unfold State.chosen
  rw [enabled_setExt]

/-- ENV's change of the drive has the same outcome whatever the drive was (R190). -/
theorem act_setExt_setExt (s : State) (e' : Drive) : (s.setExt q e).act (.setExt q e') = s.act (.setExt q e') := by
  simp only [State.act, State.setExtStep, setExt_setExt]
  rfl

/-- Forgetting the drive of a pin forgets what it was set to. -/
theorem mapNext_setExt_mapNext_setExt (e' : Drive) (o : Result) :
    mapNext (fun t => t.setExt q e') (mapNext (fun t => t.setExt q e) o) = mapNext (fun t => t.setExt q e') o := by
  cases o with
  | next t => exact congrArg Host.Outcome.next (setExt_setExt t q e e')
  | fault r => rfl
  | refused r => rfl

/-- The move and its epilogue, with the drive of the hidden pin forgotten. -/
theorem moveStep_setExt (h : Hidden q s) :
    mapNext (fun t => t.setExt q .z) (s.setExt q e).moveStep = mapNext (fun t => t.setExt q .z) s.moveStep := by
  have hw := hidden_wanted h
  unfold State.moveStep
  rw [wanted_setExt, chosen_setExt]
  cases s.wanted.2.chosen s.wanted.1 with
  | none => rfl
  | some m =>
    by_cases hm : ∃ e', m = .setExt q e'
    · obtain ⟨e', rfl⟩ := hm
      exact congrArg (fun o => mapNext _ (withEpilogue o)) (act_setExt_setExt e s.wanted.2 e')
    · have hact := ignores_act e hw.notButton hw.unbound (not_exists.1 hm)
      unfold Ignores at hact
      dsimp only at hact ⊢
      rw [hact]
      cases ha : s.wanted.2.act m with
      | next u =>
        have hu := epilogue_setExt e ((cfg_of_act ha).symm ▸ hw.notButton) (floats_of_act hw.cipOk hw.unbound hw.floats ha)
        refine (congrArg (fun t => mapNext _ (.next t)) hu).trans ?_
        exact mapNext_setExt_mapNext_setExt e .z (.next u.epilogue)
      | fault r => rfl
      | refused r => rfl

end Invisible

/-- Settles O57: whichever move is taken, it and its epilogue are the same but for the pin's drive. -/
theorem unboundPinIsInvisible : Obligations.UnboundPinIsInvisible := by
  unfold Obligations.UnboundPinIsInvisible
  rintro s q e ⟨-, hcip, -⟩ hd hb hq
  unfold step State.blockStep running
  rw [State.setExt_cfg, State.setExt_fault]
  split
  · split
    · exact moveStep_setExt e ⟨hcip, hd, hb.symm, hq⟩
    · rfl
  · rfl

end Sys2Proof.Machine
end

section
/-! PROOF. LOOP's phase table (R162): the successors of the command phases, and each phase that is one atomic step, under what its step asks
for; and ENV's two moves (R186, R190). -/

namespace Sys2Proof.Machine

section

variable {s : State}

/-- R162, R166, R183: the phases that are one atomic step and ask for nothing; the poll at `S0` and the waits' exits have a test of their own. -/
def Phase.unguarded : Phase → Bool
  | .boot5 | .s1 | .a4 | .a5 | .a6 | .b2 | .b3 | .b4 | .b5 | .b6 | .b8 | .b9 | .b10 | .z0 | .z4 => true
  | _ => false

/-- R160: where LOOP has a step and its phase issues no word, the step is the phase's own. -/
theorem loopStep_of_no_word (he : s.loopEnabled = true) (hw : phaseWord s.cfg s.lp = none) : s.loopStep = s.phaseStep := by
  simp [State.loopStep, he, hw]

/-- Without a fault an unguarded phase takes its step. -/
theorem loopStep_of_unguarded {ph : Phase} (hf : s.fault = .none) (hlp : s.lp = ph) (h : ph.unguarded = true) :
    s.loopStep = s.phaseStep := by
  subst hlp
  refine loopStep_of_no_word ?_ ?_
  · unfold State.loopEnabled
    cases hlp : s.lp <;> rw [hlp] at h <;> cases h <;> simp [hf]
  · cases hlp : s.lp <;> rw [hlp] at h <;> cases h <;> rfl

/-- R183: at `S0` LOOP has a step only when it has not polled. -/
theorem loopEnabled_of_s0 (hf : s.fault = .none) (hlp : s.lp = .s0) : s.loopEnabled = !s.polled := by
  simp [State.loopEnabled, hf, hlp]

/-- R166: in a wait LOOP has a step only from the wait's end on. -/
theorem loopEnabled_of_isWait (hf : s.fault = .none) (hw : s.lp.isWait = true) :
    s.loopEnabled = decide (s.waitUntil ≤ s.now) := by
  unfold State.loopEnabled
  cases hlp : s.lp <;> rw [hlp] at hw <;> cases hw <;> simp [hf]

/-- A wait issues no word. -/
theorem phaseWord_of_isWait (cfg : Config) {ph : Phase} (hw : ph.isWait = true) : phaseWord cfg ph = none := by
  cases ph <;> cases hw <;> rfl

/-- R160: where LOOP has no step, it is not enabled. -/
theorem loopStep_of_not_enabled (h : s.loopEnabled = false) : s.loopStep = .fault .notEnabled := by
  simp [State.loopStep, h]

/-- R166: the entry and the exit of a wait, from what the two phases' own steps are. -/
theorem wait_rules {x xw next : Phase} {d : Nat} (hf : s.fault = .none) (hx : x.unguarded = true) (hxw : xw.isWait = true)
    (entry : s.lp = x → s.phaseStep = .next (s.enterWait d xw)) (leave : s.lp = xw → s.phaseStep = .next (s.goto next)) :
    (s.lp = x → s.loopStep = .next { s with waitUntil := s.now + d, lp := xw }) ∧
    (s.lp = xw → s.waitUntil ≤ s.now → s.loopStep = .next { s with lp := next }) ∧
    (s.lp = xw → s.now < s.waitUntil → s.loopStep = .fault .notEnabled) ∧
    (s.lp = xw → s.enabled .advance = true → s.now + 1 ≤ s.waitUntil + s.cfg.waitSlackMs) := by
  refine ⟨fun h => (loopStep_of_unguarded hf h hx).trans (entry h), fun h ht => ?_, fun h ht => ?_, fun h he => ?_⟩
  · have he : s.loopEnabled = true := (loopEnabled_of_isWait hf (h ▸ hxw)).trans (decide_eq_true ht)
    exact (loopStep_of_no_word he (phaseWord_of_isWait _ (h ▸ hxw))).trans (leave h)
  · exact loopStep_of_not_enabled ((loopEnabled_of_isWait hf (h ▸ hxw)).trans (decide_eq_false (Nat.not_le.2 ht)))
  · exact now_lt_of_advanceEnabled he (h ▸ hxw)

/-- R7: an arm constant that fits is the countdown's value. -/
theorem armValue_toNat {n : Nat} (h : n ≤ 2 ^ 16 - 1) : (armValue n).toNat = n :=
  Nat.mod_eq_of_lt (Nat.lt_of_le_pred (by decide) h)

/-- R166: the four waits. -/
theorem Phase.isWait_iff {ph : Phase} : ph.isWait = true ↔ ph = .a5w ∨ ph = .b3w ∨ ph = .b5w ∨ ph = .b9w := by
  cases ph <;> simp [Phase.isWait]

/-- R186: when the time advance has a step. -/
theorem advanceEnabled_iff : s.advanceEnabled = true ↔
    s.fault = .none ∧ s.tickPending = false ∧ s.edgePending = 0 ∧
      (s.lp = .s0 ∧ s.polled = true ∨ s.lp.isWait = true ∧ s.now + 1 ≤ s.waitUntil + s.cfg.waitSlackMs ∨ s.lp = .done) := by
  simp only [State.advanceEnabled, Bool.and_eq_true, Bool.or_eq_true, Bool.not_eq_true', decide_eq_true_eq, and_assoc, or_assoc]

/-- R186, R141: the time advance with no tick pending. -/
theorem tickOver_eq (h : s.tickPending = false) : s.tickOver = { s with
    now := s.now + 1
    polled := false
    nextTick := if s.now + 1 = s.nextTick then s.nextTick + s.cfg.tickPeriodMs else s.nextTick
    tickPending := decide (s.now + 1 = s.nextTick) && s.ien } := by
  unfold State.tickOver
  by_cases ht : s.now + 1 = s.nextTick <;> simp [ht, h]

end

/-- Settles O29: the table's rows are the branches of `nextPhase`. -/
theorem commandPhaseSuccessors : Obligations.CommandPhaseSuccessors := by
  unfold Obligations.CommandPhaseSuccessors
  exact fun cfg => ⟨rfl, rfl, rfl, rfl, rfl, rfl, rfl, rfl, rfl, rfl, rfl, rfl, rfl, rfl, rfl, fun _ => rfl⟩

/-- Settles O30: the dispatch asks for nothing and tests `on`. -/
theorem dispatchOnOn : Obligations.DispatchOnOn := by
  unfold Obligations.DispatchOnOn
  intro s hf hlp
  rw [loopStep_of_unguarded hf hlp rfl, State.phaseStep, hlp]
  rfl

/-- Settles O31: the poll at `S0` is gated, the other two tests are not. -/
theorem loopTests : Obligations.LoopTests := by
  unfold Obligations.LoopTests
  intro s hf
  refine ⟨fun hlp hp => ?_, fun hlp hp => ?_, fun hlp => ?_, fun hlp hc => ?_, fun hlp hc => ?_⟩
  · have he : s.loopEnabled = true := by rw [loopEnabled_of_s0 hf hlp, hp]; rfl
    rw [loopStep_of_no_word he (by rw [hlp]; rfl), State.phaseStep, hlp]
    rfl
  · exact loopStep_of_not_enabled (by rw [loopEnabled_of_s0 hf hlp, hp]; rfl)
  · rw [loopStep_of_unguarded hf hlp rfl, State.phaseStep, hlp]
    rfl
  · rw [loopStep_of_unguarded hf hlp rfl, State.phaseStep, hlp, State.zeroCheck, if_pos hc]
    rfl
  · rw [loopStep_of_unguarded hf hlp rfl, State.phaseStep, hlp, State.zeroCheck, if_neg hc]

/-- Settles O32: each arm is its phase's own step, and R7 makes the constants fit. -/
theorem loopArms : Obligations.LoopArms := by
  unfold Obligations.LoopArms
  intro s hf hv
  obtain ⟨-, -, -, ⟨hfull, hshort⟩, -⟩ := s.cfg.valid_iff.1 hv
  refine ⟨armValue s.cfg.powerOnTime, armValue s.cfg.pendingOffTicks, armValue_toNat hfull, armValue_toNat hshort, ?_⟩
  refine ⟨fun hlp => ?_, fun hlp => ?_, fun hlp => ?_, fun hlp => ?_⟩
  all_goals
    rw [loopStep_of_unguarded hf hlp rfl, State.phaseStep, hlp]
    rfl

/-- Settles O33: each clear is its phase's own step. -/
theorem holdsClearTheLatch : Obligations.HoldsClearTheLatch := by
  unfold Obligations.HoldsClearTheLatch
  intro s hf
  refine ⟨fun hlp => ?_, fun hlp => ?_, fun hlp => ?_⟩
  all_goals
    rw [loopStep_of_unguarded hf hlp rfl, State.phaseStep, hlp]
    rfl

/-- Settles O34: the four waits follow one rule, each with its length and its successor. -/
theorem waitsEndNotBefore : Obligations.WaitsEndNotBefore := by
  unfold Obligations.WaitsEndNotBefore
  intro s x xw next d hf h
  obtain ⟨rfl, rfl, rfl, rfl⟩ | ⟨rfl, rfl, rfl, rfl⟩ | ⟨rfl, rfl, rfl, rfl⟩ | ⟨rfl, rfl, rfl, rfl⟩ := h
  all_goals exact wait_rules hf rfl rfl (fun h => by rw [State.phaseStep, h]) (fun h => by rw [State.phaseStep, h])

/-- Settles O36: the condition clause by clause, and the advance with no tick pending. -/
theorem advanceRule : Obligations.AdvanceRule := by
  unfold Obligations.AdvanceRule
  intro s
  have hiff : s.enabled .advance = true ↔ _ := advanceEnabled_iff
  refine ⟨by simpa only [Phase.isWait_iff] using hiff, fun he => ?_⟩
  obtain ⟨-, htick, -⟩ := hiff.1 he
  rw [← tickOver_eq htick]
  exact if_pos he

/-- Settles O37: the new state is `State.setExt`, which changes one drive. -/
theorem setExtRule : Obligations.SetExtRule := by
  unfold Obligations.SetExtRule
  intro s q e hf hq
  have he : s.setExtEnabled q = true := by simp [State.setExtEnabled, Config.pinExists, hf, hq]
  exact ⟨s.setExt q e, if_pos he, rfl, fun r => extOf_setExt s q r e⟩

end Sys2Proof.Machine
end

section
/-! PROOF. A press while ON (R174 to R180) writes the indicator alone, so the relays' bits stay (R196). -/

namespace Sys2Proof.Machine

/-- The pin's output and direction bits are kept. -/
def BitsKept (q : Pin) (s t : State) : Prop := t.outBit q = s.outBit q ∧ t.dirBit q = s.dirBit q

section

variable {s t : State} {c : Chan} {b : Binding} {q : Pin} {m : Move}

/-- Bits are the mux registers' alone. -/
theorem bitsKept_of_sameMux (h : SameMux s t) (q : Pin) : BitsKept q s t :=
  ⟨outBit_congr h.out q, dirBit_congr h.dir q⟩

/-- R111, R113: WRITE changes the output bit of its channel's pin alone: its pending read is not stale (R35). -/
theorem bitsKept_of_execWrite {level : Bool} (hcip : s.cipOk) (hq : ∀ b, s.chanOf c = some b → b.pin ≠ q)
    (h : execWrite c level s = .next t) : BitsKept q s t := by
  obtain ⟨-, ⟨r, f, -, -, rfl⟩ | ⟨r, b, -, -, rfl⟩ | ⟨r, b, hm, hb, rfl⟩⟩ := execWrite_next h
  · exact ⟨outBit_congr (State.raise_out ..) q, dirBit_congr (State.raise_dir ..) q⟩
  · exact ⟨rfl, rfl⟩
  · obtain ⟨-, -, b', hc, -, rfl⟩ := microOk_of_microStep_succ (i := .write c level) rfl hcip hm
    cases hc.symm.trans ((chk_ok_iff ..).1 hb).1
    exact ⟨(outBit_setOut_setBit ..).trans (if_neg (hq b hc).symm), rfl⟩

/-- R174 to R180: the commands of a press while ON are WRITEs of the indicator. -/
theorem phaseWord_of_pressWhileOn (cfg : Config) {ph : Phase} (h : ph.pressWhileOn = true) :
    (∃ v, phaseWord cfg ph = some (Instr.write 4 v).word) ∨ phaseWord cfg ph = none := by
  cases ph <;> cases h
  case b1 | b7 => exact .inl ⟨_, rfl⟩
  all_goals exact .inr rfl

/-- R30, R7: the indicator's pin is no relay's. -/
theorem indicatorPin_ne (hs : s.controllerInv) (hb : s.chanOf 4 = some b) :
    b.pin ≠ s.cfg.pinRelay1 ∧ b.pin ≠ s.cfg.pinRelay2 := by
  obtain ⟨hv, -, -, -, -, -, htable, -⟩ := hs
  obtain ⟨-, -, hnodup, -⟩ := s.cfg.valid_iff.1 hv
  rw [htable] at hb
  split at hb
  · have hpin : s.cfg.pinInd = b.pin := Option.some.inj (lines_of_controllerBinding hb)
    simp only [Config.lines, List.nodup_cons, List.mem_cons, not_or] at hnodup
    obtain ⟨-, ⟨-, -, h1, -⟩, ⟨-, h2, -⟩, -⟩ := hnodup
    rw [← hpin]
    exact ⟨Ne.symm h1, Ne.symm h2⟩
  · cases hb

/-- R196: LOOP's step in a press while ON keeps the bits of every pin but the indicator's. -/
theorem bitsKept_of_loopStep (hs : s.controllerInv) (hlp : s.lp.pressWhileOn = true)
    (hq : ∀ b, s.chanOf 4 = some b → b.pin ≠ q) (h : s.loopStep = .next t) : BitsKept q s t := by
  obtain ⟨-, -, -, -, hcip, -⟩ := hs
  obtain ⟨v, hw⟩ | hw := phaseWord_of_pressWhileOn s.cfg hlp
  · obtain ⟨u, hx, rfl⟩ := loopStep_of_command hw rfl h
    have hu : BitsKept q s u := bitsKept_of_execWrite hcip hq hx
    obtain h | ⟨-, -, h⟩ := afterMicroStep_eq u <;> rw [h]
    · exact hu
    · exact hu
  · rw [loopStep_of_no_word (loopStep_next h).1 hw] at h
    exact bitsKept_of_sameMux (sameMux_phaseStep h) q

/-- R196 for a whole step. -/
theorem bitsKept_of_step (hs : s.controllerInv) (hlp : s.lp.pressWhileOn = true)
    (hq : ∀ b, s.chanOf 4 = some b → b.pin ≠ q) (h : step s = .next t) : BitsKept q s t := by
  obtain ⟨m, ms, n, u, -, hx, rfl⟩ := step_act h
  have hu : BitsKept q s u := by
    by_cases hm : m = .loop
    · subst hm; exact bitsKept_of_loopStep (s := { s with sched := ms, picks := n }) hs hlp hq hx
    · exact bitsKept_of_sameMux (s := { s with sched := ms, picks := n }) (act_of_ne_loop hm hx).1 q
  obtain ⟨ho, hd⟩ := bitsKept_of_sameMux (sameMux_epilogue u) q
  exact ⟨ho.trans hu.1, hd.trans hu.2⟩

end

/-- Settles O53: the one pin a press while ON writes is the indicator's, which is neither relay's. -/
theorem relaysKeptDuringPressWhileOn : Obligations.RelaysKeptDuringPressWhileOn := by
  unfold Obligations.RelaysKeptDuringPressWhileOn
  intro s t hs hlp h
  obtain ⟨ho₁, hd₁⟩ := bitsKept_of_step hs hlp (fun b hb => (indicatorPin_ne hs hb).1) h
  obtain ⟨ho₂, hd₂⟩ := bitsKept_of_step hs hlp (fun b hb => (indicatorPin_ne hs hb).2) h
  exact ⟨ho₁, ho₂, hd₁, hd₂⟩

end Sys2Proof.Machine
end

section
/-! PROOF. The press at the clear of `B4` (R168, R244): EDGE's run and LOOP's clear as scheduled steps, in either order. -/

namespace Sys2Proof.Machine

/-- The button is held, no pin is opposed, `ms` are the next moves, and LOOP is at `ph`. -/
structure HeldButton (q : Pin) (ph : Phase) (ms : List Move) (s : State) : Prop where
  valid : s.cfg.valid = true
  noFault : s.fault = .none
  bound : s.chanOf 0 = some ⟨.inp, q, true, true⟩
  floats : s.dirBit q = false
  low : s.extOf q = .l
  free : ∀ r, ¬ s.opposed r
  lp : s.lp = ph
  sched : s.sched = ms

section

variable {q : Pin} {ph : Phase} {m : Move} {ms : List Move} {s t u : State}

/-- R121: which pins are opposed is the drives', the mux registers' and the configuration's alone. -/
theorem opposed_congr (hc : t.cfg = s.cfg) (hd : t.dir = s.dir) (ho : t.out = s.out) (he : t.ext = s.ext) (r : Pin) :
    t.opposed r ↔ s.opposed r := by
  unfold State.opposed
  rw [hc, dirBit_congr hd, outBit_congr ho, extOf_congr he]

/-- R145: the edge detector takes no pending edge. -/
theorem edgePending_le_edgeDetect (s : State) : s.edgePending ≤ s.edgeDetect.edgePending := by
  obtain ⟨n, v, d, h, ⟨rfl, -⟩ | ⟨-, rfl⟩⟩ := edgeDetect_cases s <;> rw [h]
  exact Nat.le_succ _

/-- The edge detector leaves the held button as it is. -/
theorem HeldButton.edgeDetect (h : HeldButton q ph ms s) : HeldButton q ph ms s.edgeDetect where
  valid := by simpa using h.valid
  noFault := by simpa using h.noFault
  bound := (chanOf_congr s.edgeDetect_chan 0).trans h.bound
  floats := (dirBit_congr s.edgeDetect_dir q).trans h.floats
  low := (extOf_congr s.edgeDetect_ext q).trans h.low
  free := fun r hr =>
    h.free r ((opposed_congr s.edgeDetect_cfg s.edgeDetect_dir s.edgeDetect_out s.edgeDetect_ext r).1 hr)
  lp := by simpa using h.lp
  sched := by simpa using h.sched

/-- R69, R204: a scheduled move that leaves the button held is followed by the edge detector alone. -/
theorem HeldButton.step_of_act {ph' : Phase} (h : HeldButton q ph (m :: ms) s) (ha : State.act { s with sched := ms } m = .next u)
    (hu : HeldButton q ph' ms u) :
    ∃ t, step s = .next t ∧ HeldButton q ph' ms t ∧ t.pressed = u.pressed ∧ u.edgePending ≤ t.edgePending := by
  have hwant : s.wanted = (m, { s with sched := ms }) := by simp [State.wanted, h.sched]
  have hm : s.taken = some m := by
    rw [State.taken, hwant]
    exact chosen_of_enabled (enabled_of_act ha)
  exact ⟨_, (contentionFaults s u m h.valid h.noFault hm (hwant ▸ ha) hu.noFault).2 hu.free, hu.edgeDetect,
    u.edgeDetect_pressed, edgePending_le_edgeDetect u⟩

/-- R120: a floating line that is pulled low is low. -/
theorem lineLevel_of_pulled_low (hd : s.dirBit q = false) (he : s.extOf q = .l) : s.lineLevel q = some false := by
  simp [State.lineLevel, hd, he]

/-- R146, R147: EDGE latches the held button. -/
theorem HeldButton.step_edge (h : HeldButton q ph (.edge :: ms) s) (hp : 0 < s.edgePending) :
    ∃ t, step s = .next t ∧ HeldButton q ph ms t ∧ t.pressed = true := by
  have hlevel : State.levelGives { s with sched := ms } q false s.draws :=
    .inl ⟨lineLevel_of_pulled_low (s := s) h.floats h.low, rfl⟩
  have ha := execEdge_of_levelGives (s := { s with sched := ms }) h.noFault hp h.bound rfl hlevel
  obtain ⟨t, hstep, ht, hpr, -⟩ := h.step_of_act ha { h with sched := rfl }
  exact ⟨t, hstep, ht, by simpa using hpr⟩

/-- R167, R176: the clear of `B4`. -/
theorem HeldButton.step_clear (h : HeldButton q .b4 (.loop :: ms) s) :
    ∃ t, step s = .next t ∧ HeldButton q .b5 ms t ∧ t.pressed = false ∧ s.edgePending ≤ t.edgePending := by
  have ha := (holdsClearTheLatch { s with sched := ms } h.noFault).2.1 h.lp
  exact h.step_of_act ha { h with sched := rfl, lp := rfl }

end

/-- Settles O55: the clear takes away the press latched before it, and EDGE after it latches the button held. -/
theorem pressAtClearBothOrders : Obligations.PressAtClearBothOrders := by
  unfold Obligations.PressAtClearBothOrders
  intro s q ms hv hf hlp hp hb hd he hq
  have held (moves : List Move) : HeldButton q .b4 moves { s with sched := moves } := ⟨hv, hf, hb, hd, he, hq, hlp, rfl⟩
  constructor
  · obtain ⟨t, ht, heldT, hpt⟩ := (held (.edge :: .loop :: ms)).step_edge hp
    obtain ⟨u, hu, heldU, hpu, -⟩ := heldT.step_clear
    exact ⟨t, u, ht, hu, hpt, hpu, heldU.lp⟩
  · obtain ⟨t, ht, heldT, hpt, hle⟩ := (held (.loop :: .edge :: ms)).step_clear
    obtain ⟨u, hu, heldU, hpu⟩ := heldT.step_edge (Nat.lt_of_lt_of_le hp hle)
    exact ⟨t, u, ht, hu, hpt, hpu, heldU.lp⟩

end Sys2Proof.Machine
end

section
/-! PROOF. A fault ends the run (R201, R45): no agent has a step after it, and a command fault changes the fault record alone. -/

namespace Sys2Proof.Machine

/-- R201: after a fault no meaning runs. -/
theorem exec_of_fault {s : State} (hf : s.fault ≠ .none) (i : Instr) : exec i s = .fault .halted := by
  cases i <;> exact running_of_fault hf _

/-- R201: a meaning that answers a next state began without a fault. -/
theorem fault_of_exec {i : Instr} {s t : State} (h : exec i s = .next t) : s.fault = .none := by
  by_contra hf
  rw [exec_of_fault hf] at h
  cases h

/-- R201: after a fault no move is enabled. -/
theorem enabled_of_fault {s : State} (hf : s.fault ≠ .none) (m : Move) : s.enabled m = false := by
  cases m <;>
    simp [State.enabled, State.loopEnabled, State.advanceEnabled, State.setExtEnabled, hf]

/-- Settles O40: every move asks for `FAULT = 0` to be enabled, and every meaning and the step ask for it to run. -/
theorem faultStopsEveryAgent : Obligations.FaultStopsEveryAgent := by
  unfold Obligations.FaultStopsEveryAgent
  refine fun s hf => ⟨enabled_of_fault hf, exec_of_fault hf, fun hv => ?_⟩
  simp [step, State.blockStep, hv, running_of_fault hf]

/-- R201: a command that ends with a fault has changed the fault record alone, and recorded its word. -/
theorem exec_command_fault {i : Instr} {c : Chan} {s t : State} (hi : i.chan? = some c) (h : exec i s = .next t)
    (ht : t.fault ≠ .none) : t = { s with fault := t.fault, faultWord := i.word, faultPin := t.faultPin } := by
  obtain ⟨k, q, -, rfl⟩ | ⟨hframe, -⟩ := exec_frame hi h
  · rfl
  · have hkept : t.fault = s.fault := by rw [hframe]
    exact absurd (hkept.trans (fault_of_exec h)) ht

/-- R201, entry 10: so has EDGE, with the word of its READ. -/
theorem execEdge_fault {s t : State} (h : execEdge s = .next t) (ht : t.fault ≠ .none) :
    t = { s with fault := t.fault, faultWord := 0xA000, faultPin := t.faultPin } := by
  have hword : (Instr.read buttonChan).word = 0xA000 := by decide
  obtain ⟨hf, -, ⟨f, -, rfl⟩ | ⟨v, hv, rfl⟩⟩ := execEdge_next h
  · rw [raise_of_no_fault hf, hword]
  · obtain ⟨b, -, -, rfl⟩ := (readChannel_ok_iff ..).1 hv
    exact absurd ((State.sample_fault ..).trans hf) ht

/-- Settles O18: TICK raises no fault, EDGE that of its READ, and a command its own. -/
theorem commandFaultKeepsState : Obligations.CommandFaultKeepsState := by
  unfold Obligations.CommandFaultKeepsState
  intro i s t h ht
  cases i with
  | tick =>
    obtain ⟨hf, -, rfl⟩ := execTick_next h
    exact absurd hf ht
  | edge => exact execEdge_fault h ht
  | _ => exact exec_command_fault rfl h ht

end Sys2Proof.Machine
end

section
/-! PROOF. A handler whose turn is next (R205, R207, R208): its run answers a state, and the step is the run with its epilogue. -/

namespace Sys2Proof.Machine

/-- R69, R204: the move whose turn is next runs if it has a step, with its epilogue after it. -/
theorem step_of_sched {s u : State} {m : Move} {ms : List Move} (hv : s.cfg.valid = true) (hf : s.fault = .none)
    (hs : s.sched = m :: ms) (ha : State.act { s with sched := ms } m = .next u) : step s = .next u.epilogue := by
  have hwant : s.wanted = (m, { s with sched := ms }) := by simp [State.wanted, hs]
  have hm : s.taken = some m := by
    rw [State.taken, hwant]
    exact chosen_of_enabled (enabled_of_act ha)
  exact step_of_taken hv hf hm (hwant ▸ ha)

/-- R142: TICK runs where it is pending. -/
theorem execTick_of_pending {s : State} (hf : s.fault = .none) (hp : s.tickPending = true) :
    exec .tick s = .next { s with tickPending := false, countdown := decrement s.countdown } := by
  simp [exec, execTick, hf, hp]

/-- R146: EDGE runs where it is pending; its READ answers a level or raises its fault. -/
theorem execEdge_of_pending {s : State} (hf : s.fault = .none) (hp : 0 < s.edgePending) : ∃ t, exec .edge s = .next t := by
  cases hr : s.readChannel buttonChan with
  | error f => simp [exec, execEdge, hf, hp.ne', hr]
  | ok v => simp [exec, execEdge, hf, hp.ne', hr]

/-- Settles O26: each handler runs where it is pending, and its turn is taken. -/
theorem stepRunsPendingHandler : Obligations.StepRunsPendingHandler := by
  unfold Obligations.StepRunsPendingHandler
  refine fun s ms hv hf => ⟨fun hs hp => ?_, fun hs hp => ?_⟩
  · have ht := execTick_of_pending (s := { s with sched := ms }) hf hp
    exact ⟨_, ht, step_of_sched hv hf hs ht⟩
  · obtain ⟨t, ht⟩ := execEdge_of_pending (s := { s with sched := ms }) hf hp
    exact ⟨t, ht, step_of_sched hv hf hs ht⟩

end Sys2Proof.Machine
end

section
/-! PROOF. The controller in its configuration, under the environment's duty (R191): some agent always has a step (R163), and every step
that is taken raises no fault (R200) and keeps `controllerInv`. LOOP's commands are the binds of the boot and the WRITEs of the outputs;
what each of their micro-steps leaves is said once, as `ControllerCommand`. -/

namespace Sys2Proof.Machine

/-- R30: the first `n` channels are bound as boot binds them, and no other is bound. -/
def State.boundTo (s : State) (n : Nat) : Prop :=
  ∀ c : Chan, s.chanOf c = if c.val < n then controllerBinding s.cfg c else none

/-- R104: the output lines among the first `n` channels are driven. -/
def State.drivenTo (s : State) (n : Nat) : Prop :=
  ∀ c b, controllerBinding s.cfg c = some b → b.kind = .out → c.val < n → s.dirBit b.pin = true

/-- What a micro-step of the phase's command `i` leaves, before LOOP goes to the next phase: the channels bound up to that phase, nothing
but outputs driven, and the command still in progress, or complete with its output driven. -/
structure ControllerCommand (i : Instr) (s u : State) : Prop where
  noFault : u.fault = .none
  bound : u.boundTo (nextPhase s.cfg s.lp).bindsDone
  outputs : ∀ q, u.dirBit q = true → q ∈ outputPins u.cfg ∧ s.lp ≠ .boot0
  driven : (∃ k r, u.cip = .busy i.word k r) ∧ u.drivenTo s.lp.bindsDone ∨
    u.cip = .idle ∧ u.drivenTo (nextPhase s.cfg s.lp).bindsDone

section Phases

variable {cfg : Config} {ph : Phase} {w : CmdWord} {c d : Chan} {b b' : Binding} {v : Bool}

/-- R162: a phase of the controller leads to a phase of the controller, with one more bind done until all five are. -/
theorem nextPhase_of_controller (cfg : Config) (h : ph.ofController = true) :
    (nextPhase cfg ph).ofController = true ∧
      (nextPhase cfg ph).bindsDone = if ph.bindsDone < 5 then ph.bindsDone + 1 else 5 := by
  cases ph
  case cmd | done => cases h
  case a3 | z3 => cases ha : cfg.auxFollowsRelays <;> simp [nextPhase, ha, Phase.ofController, Phase.bindsDone]
  all_goals exact ⟨rfl, rfl⟩

/-- R231: no phase leads to the start of the boot. -/
theorem nextPhase_ne_boot0 (cfg : Config) (ph : Phase) : nextPhase cfg ph ≠ .boot0 := by
  cases ph
  case a3 | z3 | cmd =>
    simp only [nextPhase]
    split <;> nofun
  all_goals nofun

/-- R231: and none but a boot phase into the boot. -/
theorem isBoot_of_nextPhase (h : (nextPhase cfg ph).isBoot = true) : ph.isBoot = true := by
  cases ph
  case a3 | z3 | cmd =>
    simp only [nextPhase] at h
    split at h <;> cases h
  all_goals exact h

/-- R231: outside the boot all five binds are done. -/
theorem bindsDone_of_not_isBoot (h : ph.isBoot = false) : ph.bindsDone = 5 := by
  cases ph <;> simp [Phase.isBoot, Phase.bindsDone] at h ⊢

/-- R94, R231: a boot phase with a command binds the next channel, the button first, then the outputs. -/
theorem bind_of_isBoot (h : ph.isBoot = true) (hw : phaseWord cfg ph ≠ none) :
    ph = .boot0 ∨ ph ≠ .boot0 ∧ ∃ c q al, phaseWord cfg ph = some (Instr.bindOut c q al).word ∧
      controllerBinding cfg c = some ⟨.out, q, al, false⟩ ∧ c.val = ph.bindsDone := by
  cases ph
  case boot0 => exact .inl rfl
  case boot1 | boot2 | boot3 | boot4 => exact .inr ⟨nofun, _, _, _, rfl, rfl, rfl⟩
  case boot5 => exact absurd rfl hw
  all_goals cases h

/-- R30: the channel that a phase writes is one of the outputs. -/
theorem output_of_writes (h : ph.writes cfg = some (c, v)) : ∃ b, controllerBinding cfg c = some b ∧ b.kind = .out := by
  cases ph <;> simp only [Phase.writes, reduceCtorEq] at h
  case a3x | z3x =>
    split at h <;> cases h
    exact ⟨_, rfl, rfl⟩
  all_goals
    cases h
    exact ⟨_, rfl, rfl⟩

/-- R30: the controller has five channels. -/
theorem lt_five_of_controllerBinding (h : controllerBinding cfg c = some b) : c.val < 5 :=
  (List.getElem?_eq_some_iff.1 (lines_of_controllerBinding h)).1

/-- R30: the controller has no tri-state channel. -/
theorem kind_ne_tri_of_controllerBinding (h : controllerBinding cfg c = some b) : b.kind ≠ .tri := by
  unfold controllerBinding at h
  repeat' split at h
  all_goals cases h <;> nofun

/-- R30, R191: the pins of its outputs are the output lines. -/
theorem mem_outputPins_of_controllerBinding (h : controllerBinding cfg c = some b) (hk : b.kind = .out) :
    b.pin ∈ outputPins cfg := by
  unfold controllerBinding at h
  repeat' split at h
  all_goals cases h
  · cases hk
  all_goals simp [outputPins]

/-- R7: the pins of the controller's channels exist. -/
theorem pinExists_of_controllerBinding (hv : cfg.valid = true) (h : controllerBinding cfg c = some b) :
    cfg.pinExists b.pin = true := by
  obtain ⟨-, hpins, -⟩ := cfg.valid_iff.1 hv
  exact decide_eq_true (hpins _ (List.mem_of_getElem? (lines_of_controllerBinding h)))

/-- R7: the pins of two of the controller's channels are two pins. -/
theorem pin_ne_of_controllerBinding (hv : cfg.valid = true) (h : controllerBinding cfg c = some b)
    (h' : controllerBinding cfg d = some b') (hne : d ≠ c) : b'.pin ≠ b.pin := by
  obtain ⟨-, -, hnodup, -⟩ := cfg.valid_iff.1 hv
  have hget := lines_of_controllerBinding h
  obtain ⟨hlt, -⟩ := List.getElem?_eq_some_iff.1 hget
  intro heq
  have hsame : cfg.lines[c.val]? = cfg.lines[d.val]? := by rw [hget, lines_of_controllerBinding h', heq]
  exact hne (Fin.ext ((List.getElem?_inj hlt hnodup).1 hsame).symm)

end Phases

section Kept

variable {s t u : State} {i : Instr} {c : Chan} {b : Binding} {ph : Phase} {w : CmdWord} {k : Nat} {r : PortReg}

/-- R27, R117: the controller's channels are in order, and the direction invariant is about none of them. -/
theorem muxInv_of_controllerInv (hs : s.controllerInv) : s.muxInv := by
  have ⟨_, _, _, _, hcip, _, htable, _⟩ := hs
  refine ⟨chanOk_of_controllerInv hs, hcip, fun c b hb hk => ?_⟩
  have hbound := htable c
  rw [hb] at hbound
  split at hbound
  · exact absurd hk (kind_ne_tri_of_controllerBinding hbound.symm)
  · cases hbound

/-- A state with the same mux and the same `lp` is in the invariant if it meets the clauses about faults, drives and events. -/
theorem controllerInv_of_sameMux (hs : s.controllerInv) (h : SameMux s t) (hlp : t.lp = s.lp) (hf : t.fault = .none)
    (hfree : t.lp ≠ .boot0 → t.outputsFree)
    (hev : t.lp.isBoot = true → t.ien = false ∧ t.tickPending = false ∧ t.edgePending = 0) : t.controllerInv := by
  obtain ⟨hv, hmode, -, hctl, hcip, hown, htable, houts, hdriven, -, -⟩ := hs
  obtain ⟨hcfg, hdir, hout, hchan, htri, hcipEq⟩ := h
  cases s
  cases t
  cases hcfg; cases hdir; cases hout; cases hchan; cases htri; cases hcipEq; cases hlp
  exact ⟨hv, hmode, hf, hctl, hcip, hown, htable, houts, hdriven, hfree, hev⟩

/-- With no command in progress as many channels are bound as binds are done (R231). -/
theorem boundCount_of_idle (h : s.cip = .idle) : s.boundCount = s.lp.bindsDone := by
  simp only [State.boundCount, h]

/-- With one in progress, as many as will be done when it is complete. -/
theorem boundCount_of_busy (hctl : s.lp.ofController = true) (h : s.cip = .busy w k r) :
    s.boundCount = (nextPhase s.cfg s.lp).bindsDone := by
  simp only [State.boundCount, h, nextPhase_of_controller s.cfg hctl]

/-- R231: once all five binds are done, five channels are bound. -/
theorem boundCount_of_bindsDone (h5 : s.lp.bindsDone = 5) : s.boundCount = 5 := by
  unfold State.boundCount
  cases s.cip <;> simp [h5]

/-- R30: the channels bound in a controller run. -/
theorem boundTo_of_controllerInv (hs : s.controllerInv) : s.boundTo s.boundCount := by
  obtain ⟨-, -, -, -, -, -, htable, -⟩ := hs
  exact htable

/-- Once the binds are done, LOOP may go to any phase after the boot when it has no command in progress. -/
theorem controllerInv_goto (hs : s.controllerInv) (hidle : s.cip = .idle) (h5 : s.lp.bindsDone = 5)
    (hctl : ph.ofController = true) (hb : ph.isBoot = false) : (s.goto ph).controllerInv := by
  obtain ⟨hv, hmode, hf, -, hcip, -, htable, houts, hdriven, hfree, -⟩ := hs
  have hph : ph ≠ .boot0 := by rintro rfl; cases hb
  have hlp : s.lp ≠ .boot0 := by intro h; rw [h] at h5; cases h5
  have hsame : ph.bindsDone = s.lp.bindsDone := (bindsDone_of_not_isBoot hb).trans h5.symm
  have hcount : (s.goto ph).boundCount = s.boundCount := by
    rw [boundCount_of_idle hidle, boundCount_of_idle (s := s.goto ph) hidle]
    exact hsame
  refine ⟨hv, hmode, hf, hctl, hcip, ?_, hcount ▸ htable, fun q hq => ⟨(houts q hq).1, hph⟩, hsame ▸ hdriven, fun _ => hfree hlp,
    fun h => absurd (hb.symm.trans h) nofun⟩
  simp [State.cipOfPhase, hidle]

/-- R35: the phase's command has not begun, or is in progress and its pending read is not stale. -/
theorem cip_cases (hs : s.controllerInv) (hi : i.chan? = some c) (hw : phaseWord s.cfg s.lp = some i.word) :
    s.cip = .idle ∨ ∃ k r, s.cip = .busy i.word k r ∧ s.microOk i k r := by
  obtain ⟨-, -, -, -, hcip, hown, -⟩ := hs
  cases h : s.cip with
  | idle => exact .inl rfl
  | busy w k r =>
    simp only [State.cipOfPhase, h, hw, Option.some.injEq] at hown
    subst hown
    exact .inr ⟨k, r, rfl, microOk_of_busy hi hcip h⟩

/-- After the phase's command, LOOP is in the invariant again. -/
theorem controllerInv_of_command (hs : s.controllerInv) (hi : i.chan? = some c) (hw : phaseWord s.cfg s.lp = some i.word)
    (hx : exec i s = .next u) (hloop : s.loopStep = .next u.afterMicroStep) (hu : ControllerCommand i s u)
    (hfree : u.afterMicroStep.lp ≠ .boot0 → u.afterMicroStep.outputsFree) : u.afterMicroStep.controllerInv := by
  have hmux := muxInv_of_controllerInv hs
  obtain ⟨hv, hmode, -, hctl, -, -, -, -, -, -, hev⟩ := hs
  have hkeeps := loopKeeps hloop
  have ⟨_, hcip, _⟩ := loopStep_keeps_muxInv hmux hloop
  obtain ⟨hcfg, -, hlp⟩ := exec_controls hi hx
  have hnext := (nextPhase_of_controller s.cfg hctl).1
  have hboot5 : s.lp ≠ .boot5 := by intro h; rw [h] at hw; cases hw
  have hquiet (hb : s.lp.isBoot = true) : u.afterMicroStep.ien = false ∧ u.afterMicroStep.tickPending = false ∧
      u.afterMicroStep.edgePending = 0 := by
    rw [(hkeeps.events hboot5).1, hkeeps.tickPending, hkeeps.edgePending]
    exact hev hb
  obtain ⟨⟨k, r, hbusy⟩, hdriven⟩ | ⟨hidle, hdriven⟩ := hu.driven
  · have ht : u.afterMicroStep = u := by simp [afterMicroStep_eq_ite, hbusy]
    rw [ht] at hcip hfree hquiet ⊢
    have hcount := boundCount_of_busy (hlp ▸ hctl) hbusy
    rw [hcfg, hlp] at hcount
    refine ⟨hcfg ▸ hv, hcfg ▸ hmode, hu.noFault, hlp ▸ hctl, hcip, ?_, hcount ▸ hu.bound, hlp ▸ hu.outputs, hlp ▸ hdriven,
      hfree, hlp ▸ hquiet⟩
    simp [State.cipOfPhase, hbusy, hcfg, hlp, hw]
  · have ht : u.afterMicroStep = u.goto (nextPhase s.cfg s.lp) := by
      rw [afterMicroStep_eq_ite, if_pos ⟨hu.noFault, hidle⟩, hcfg, hlp]
    rw [ht] at hcip hfree hquiet ⊢
    have hcount := boundCount_of_idle (s := u.goto (nextPhase s.cfg s.lp)) hidle
    refine ⟨hcfg ▸ hv, hcfg ▸ hmode, hu.noFault, hnext, hcip, ?_, hcount ▸ hu.bound,
      fun q hq => ⟨(hu.outputs q hq).1, nextPhase_ne_boot0 _ _⟩, hdriven, hfree, fun hb => hquiet (isBoot_of_nextPhase hb)⟩
    simp [State.cipOfPhase, hidle]

end Kept

section Commands

variable {s : State} {c : Chan} {q : Pin} {al v : Bool} {b : Binding}

/-- R111: the WRITE of a phase runs, on a bound output. -/
theorem controllerCommand_write (hs : s.controllerInv) (hw : phaseWord s.cfg s.lp = some (Instr.write c v).word)
    (hwr : s.lp.writes s.cfg = some (c, v)) : ∃ u, exec (.write c v) s = .next u ∧ ControllerCommand (.write c v) s u := by
  have ⟨_, _, hf, hctl, _, _, _, houts, hdriven, _⟩ := hs
  have h5 := bindsDone_of_writes hwr
  have hnext : (nextPhase s.cfg s.lp).bindsDone = 5 := by rw [(nextPhase_of_controller s.cfg hctl).2, h5]; rfl
  obtain ⟨b, hb, hk⟩ := output_of_writes hwr
  have hbound := boundTo_of_controllerInv hs
  rw [boundCount_of_bindsDone h5] at hbound
  have hchk : s.chk c .out = .ok b :=
    (chk_ok_iff ..).2 ⟨(hbound c).trans ((if_pos (lt_five_of_controllerBinding hb)).trans hb), hk⟩
  obtain hidle | ⟨k, r, hbusy, rfl, -⟩ := cip_cases hs rfl hw
  · exact ⟨_, execWrite_read v hf hidle hchk, hf, hnext.symm ▸ hbound, houts, .inl ⟨⟨_, _, rfl⟩, hdriven⟩⟩
  · rw [h5] at hdriven
    exact ⟨_, execWrite_modify hf hbusy hchk, hf, hnext.symm ▸ hbound, houts, .inr ⟨rfl, hnext.symm ▸ hdriven⟩⟩

/-- R103: the bind check of the boot's next bind passes. -/
theorem bindchk_of_boundTo (hv : s.cfg.valid = true) (hbound : s.boundTo c.val) (hb : controllerBinding s.cfg c = some b) :
    s.bindchk c b.pin = none := by
  refine (bindchk_none_iff ..).2 ⟨by simp [hbound c], pinExists_of_controllerBinding hv hb, fun d hne b' hb' => ?_⟩
  rw [hbound] at hb'
  split at hb'
  · exact pin_ne_of_controllerBinding hv hb hb' hne
  · cases hb'

/-- R27: after its `μ0` the bind's own channel is bound too. -/
theorem boundTo_bindStart (hbound : s.boundTo c.val) (hb : controllerBinding s.cfg c = some b) (w : CmdWord) :
    (s.bindStart w c b).boundTo (c.val + 1) := by
  intro d
  simp only [State.bindStart, chanOf_setCip, chanOf_setChan, State.setCip_cfg, State.setChan_cfg]
  obtain hlt | heq | hgt := lt_trichotomy d c
  · simp [hlt.ne, hbound d, hlt, Nat.lt_succ_of_lt hlt]
  · simp [heq, hb]
  · have hle : ¬ d.val < c.val + 1 := Nat.not_lt.2 (Nat.succ_le_of_lt hgt)
    simp [hgt.ne', hbound d, hle, hgt.le]

/-- R231: after the bind of the boot phase's channel, it and those before it are bound. -/
theorem bindsDone_nextPhase_of_bind (hctl : s.lp.ofController = true) (hb : controllerBinding s.cfg c = some b)
    (hc : c.val = s.lp.bindsDone) : (nextPhase s.cfg s.lp).bindsDone = c.val + 1 := by
  rw [(nextPhase_of_controller s.cfg hctl).2, ← hc, if_pos (lt_five_of_controllerBinding hb)]

/-- R104: the BIND.OUT of a boot phase runs, and drives its output. -/
theorem controllerCommand_bindOut (hs : s.controllerInv) (hw : phaseWord s.cfg s.lp = some (Instr.bindOut c q al).word)
    (hb : controllerBinding s.cfg c = some ⟨.out, q, al, false⟩) (hc : c.val = s.lp.bindsDone) (h0 : s.lp ≠ .boot0) :
    ∃ u, exec (.bindOut c q al) s = .next u ∧ ControllerCommand (.bindOut c q al) s u := by
  have hbound := boundTo_of_controllerInv hs
  have ⟨hv, _, hf, hctl, _, _, _, houts, hdriven, _⟩ := hs
  have hnext := bindsDone_nextPhase_of_bind hctl hb hc
  obtain hidle | ⟨k, r, hbusy, rfl, -, rfl⟩ := cip_cases hs rfl hw
  · rw [boundCount_of_idle hidle, ← hc] at hbound
    exact ⟨_, execBindOut_start al hf hidle (bindchk_of_boundTo hv hbound hb), hf, hnext ▸ boundTo_bindStart hbound hb _, houts,
      .inl ⟨⟨_, _, rfl⟩, hdriven⟩⟩
  · rw [boundCount_of_busy hctl hbusy] at hbound
    refine ⟨_, execBindOut_modify hf hbusy, hf, hbound, fun p hp => ?_, .inr ⟨rfl, fun d b' hb' hk hd => ?_⟩⟩
    · rw [dirBit_setCip, dirBit_setDir_setBit] at hp
      split at hp
      · subst p
        exact ⟨mem_outputPins_of_controllerBinding hb rfl, h0⟩
      · exact houts p hp
    · rw [dirBit_setCip, dirBit_setDir_setBit]
      split
      · rfl
      · rename_i hne
        have hdc : d.val ≠ c.val := fun h => by cases Fin.ext h; cases hb.symm.trans hb'; exact hne rfl
        rw [hnext] at hd
        have hdlt : d.val < s.lp.bindsDone := by omega
        exact hdriven d b' hb' hk hdlt

/-- R108: the BIND.IN of the button runs, and drives nothing. -/
theorem controllerCommand_bindIn (hs : s.controllerInv)
    (hw : phaseWord s.cfg s.lp = some (Instr.bindIn c q al true).word)
    (hb : controllerBinding s.cfg c = some ⟨.inp, q, al, true⟩) (hc : c.val = s.lp.bindsDone) (h0 : c.val = 0) :
    ∃ u, exec (.bindIn c q al true) s = .next u ∧ ControllerCommand (.bindIn c q al true) s u := by
  have hbound := boundTo_of_controllerInv hs
  have ⟨hv, _, hf, hctl, _, _, _, houts, hdriven, _⟩ := hs
  have hnext := bindsDone_nextPhase_of_bind hctl hb hc
  obtain hidle | ⟨k, r, hbusy, hbind, hk⟩ := cip_cases hs rfl hw
  · rw [boundCount_of_idle hidle, ← hc] at hbound
    exact ⟨_, execBindIn_start al true hf hidle (bindchk_of_boundTo hv hbound hb), hf, hnext ▸ boundTo_bindStart hbound hb _,
      houts, .inl ⟨⟨_, _, rfl⟩, hdriven⟩⟩
  · rw [boundCount_of_busy hctl hbusy] at hbound
    obtain ⟨rfl, rfl⟩ | ⟨-, rfl⟩ | ⟨-, rfl, rfl⟩ := hk
    · refine ⟨_, execBindIn_float hf hbusy, hf, hbound, fun p hp => ?_, .inl ⟨⟨_, _, rfl⟩, fun d b' hb' hk hd => ?_⟩⟩
      · rw [dirBit_setCip, dirBit_setDir_setBit] at hp
        split at hp
        · cases hp
        · exact houts p hp
      · omega
    · exact ⟨_, execBindIn_readOut hf hbusy, hf, hbound, houts, .inl ⟨⟨_, _, rfl⟩, hdriven⟩⟩
    · refine ⟨_, execBindIn_pullUp hf hbusy, hf, hbound, houts, .inr ⟨rfl, fun d b' hb' hk hd => ?_⟩⟩
      obtain rfl : d = c := Fin.ext (by omega)
      cases hb.symm.trans hb'
      cases hk

end Commands

section Step

variable {s t u : State} {m : Move}

/-- R94, R231: a command phase of the controller runs its command. -/
theorem exists_controllerCommand (hs : s.controllerInv) (hw : phaseWord s.cfg s.lp ≠ none) :
    ∃ i c u, phaseWord s.cfg s.lp = some i.word ∧ i.chan? = some c ∧ exec i s = .next u ∧ ControllerCommand i s u := by
  have ⟨_, _, _, hctl, _⟩ := hs
  obtain ⟨-, -, -, -, -, hboot, -⟩ | ⟨c, v, hword, hwr⟩ | hnone := phaseWord_of_controller s.cfg hctl
  · obtain h0 | ⟨h0, c, q, al, hword, hb, hc⟩ := bind_of_isBoot hboot hw
    · have hword : phaseWord s.cfg s.lp = some (Instr.bindIn 0 s.cfg.pinButton true true).word := by rw [h0]; rfl
      obtain ⟨u, hx, hu⟩ := controllerCommand_bindIn hs hword rfl (by rw [h0]; rfl) rfl
      exact ⟨_, _, u, hword, rfl, hx, hu⟩
    · obtain ⟨u, hx, hu⟩ := controllerCommand_bindOut hs hword hb hc h0
      exact ⟨_, _, u, hword, rfl, hx, hu⟩
  · obtain ⟨u, hx, hu⟩ := controllerCommand_write hs hword hwr
    exact ⟨_, _, u, hword, rfl, hx, hu⟩
  · exact absurd hnone hw

/-- R162: a phase's own step raises no fault. -/
theorem fault_of_phaseStep (h : s.phaseStep = .next t) : t.fault = s.fault := by
  obtain ⟨-, rfl⟩ | ⟨ph, rfl⟩ | ⟨d, ph, rfl⟩ | ⟨ph, rfl⟩ | ⟨n, ph, on, -, rfl⟩ | ⟨on, rfl⟩ := phaseStep_next h
  · exact State.sample_fault ..
  all_goals rfl

/-- R162: a phase of the controller without a command comes after the binds, and takes its own step to a phase after the boot. -/
theorem phaseStep_of_controller (hctl : s.lp.ofController = true) (hw : phaseWord s.cfg s.lp = none) :
    s.lp.bindsDone = 5 ∧ ∃ t, s.phaseStep = .next t ∧ t.lp.ofController = true ∧ t.lp.isBoot = false := by
  rw [State.phaseStep]
  cases hlp : s.lp <;> rw [hlp] at hctl hw
  case cmd | done => cases hctl
  case boot0 | boot1 | boot2 | boot3 | boot4 | a1 | a2 | a3 | b1 | b7 | z1 | z2 | z3 => cases hw
  case s0 | s1 | b6 => exact ⟨rfl, _, rfl, by rw [State.goto_lp]; split <;> exact ⟨rfl, rfl⟩⟩
  case z0 => exact ⟨rfl, _, rfl, by unfold State.zeroCheck; split <;> exact ⟨rfl, rfl⟩⟩
  all_goals exact ⟨rfl, _, rfl, rfl, rfl⟩

/-- R160, R200: LOOP's step, where it has one, keeps the invariant if it leaves no output line driven from outside. -/
theorem loopStep_of_controllerInv (hs : s.controllerInv) (he : s.loopEnabled = true)
    (hfree : ∀ t, s.loopStep = .next t → t.lp ≠ .boot0 → t.outputsFree) : ∃ t, s.loopStep = .next t ∧ t.controllerInv := by
  by_cases hw : phaseWord s.cfg s.lp = none
  · have ⟨_, _, hf, hctl, _, hown, _⟩ := hs
    obtain ⟨h5, t, ht, htctl, htb⟩ := phaseStep_of_controller hctl hw
    have hloop := (loopStep_of_no_word he hw).trans ht
    have hidle : s.cip = .idle := by
      cases h : s.cip with
      | idle => rfl
      | busy w k r => simp [State.cipOfPhase, h, hw] at hown
    obtain ⟨hcfg, hdir, hout, hchan, htri, hcip⟩ := sameMux_phaseStep ht
    have hgoto : (s.goto t.lp).controllerInv := controllerInv_goto hs hidle h5 htctl htb
    exact ⟨t, hloop, controllerInv_of_sameMux hgoto ⟨hcfg, hdir, hout, hchan, htri, hcip⟩ rfl ((fault_of_phaseStep ht).trans hf)
      (hfree t hloop) fun hb => absurd (htb.symm.trans hb) nofun⟩
  · have ⟨_, _, hf, _⟩ := hs
    obtain ⟨i, c, u, hword, hi, hx, hu⟩ := exists_controllerCommand hs hw
    have hloop : s.loopStep = .next u.afterMicroStep := by
      rw [loopStep_of_decode_ok hf hword (decodeWord_word hi), hx]; rfl
    exact ⟨_, hloop, controllerInv_of_command hs hi hword hx hloop hu (hfree _ hloop)⟩

/-- R190: no SetExt that keeps ENV's duty drives an output line from `BOOT1` on. -/
theorem outputsFree_setExt (hfree : s.lp ≠ .boot0 → s.outputsFree) {q : Pin} {e : Drive} (hd : dutiful s (.setExt q e))
    (h0 : s.lp ≠ .boot0) : (s.setExt q e).outputsFree := by
  intro p hp
  rw [extOf_setExt]
  split
  · rename_i hpq
    exact hd h0 (hpq ▸ hp)
  · exact hfree h0 p hp

/-- R30: after the boot the button's channel is bound as an input. -/
theorem buttonChan_of_controllerInv (hs : s.controllerInv) (hb : s.lp.isBoot = false) :
    ∃ b, s.chanOf buttonChan = some b ∧ b.kind = .inp := by
  have hbound := boundTo_of_controllerInv hs
  rw [boundCount_of_bindsDone (bindsDone_of_not_isBoot hb)] at hbound
  exact ⟨_, hbound buttonChan, rfl⟩

/-- R200: a move that has a step, under the duty, answers a state of the invariant. -/
theorem act_of_controllerInv (hs : s.controllerInv) (he : s.enabled m = true) (hd : dutiful s m) :
    ∃ u, s.act m = .next u ∧ u.controllerInv := by
  have ⟨_, _, hf, _, _, _, _, _, _, hfree, hev⟩ := hs
  cases m with
  | loop => exact loopStep_of_controllerInv hs he hd
  | tick =>
    have hp : s.tickPending = true := by simpa [State.enabled, hf] using he
    refine ⟨_, execTick_of_pending hf hp, controllerInv_of_sameMux hs ⟨rfl, rfl, rfl, rfl, rfl, rfl⟩ rfl hf hfree fun hb => ?_⟩
    exact absurd ((hev hb).2.1.symm.trans hp) nofun
  | edge =>
    have hp : 0 < s.edgePending := by simpa [State.enabled, hf] using he
    have hboot : s.lp.isBoot = false := Bool.eq_false_iff.2 fun hb => hp.ne' (hev hb).2.2
    obtain ⟨b, hb, hk⟩ := buttonChan_of_controllerInv hs hboot
    refine ⟨_, execEdge_of_levelGives hf hp hb hk (levelGives_sample s b.pin),
      controllerInv_of_sameMux hs ⟨rfl, rfl, rfl, rfl, rfl, rfl⟩ rfl hf hfree fun hb => ?_⟩
    exact absurd (hboot.symm.trans hb) nofun
  | advance =>
    obtain ⟨-, htick, -⟩ := advanceEnabled_iff.1 he
    refine ⟨_, if_pos he, ?_⟩
    rw [tickOver_eq htick]
    refine controllerInv_of_sameMux hs ⟨rfl, rfl, rfl, rfl, rfl, rfl⟩ rfl hf hfree fun hb => ?_
    obtain ⟨hien, -, hedge⟩ := hev hb
    exact ⟨hien, by simp [hien], hedge⟩
  | setExt q e =>
    exact ⟨_, if_pos he, controllerInv_of_sameMux hs ⟨rfl, rfl, rfl, rfl, rfl, rfl⟩ rfl hf (outputsFree_setExt hfree hd) hev⟩

/-- R121, R191: no pin is opposed, as only output lines are driven, and ENV drives none of them. -/
theorem not_opposed_of_controllerInv (hs : s.controllerInv) (q : Pin) : ¬ s.opposed q := by
  obtain ⟨-, -, -, -, -, -, -, houts, -, hfree, -⟩ := hs
  rintro ⟨-, hd, hagainst⟩
  obtain ⟨hq, h0⟩ := houts q hd
  rw [hfree h0 q hq] at hagainst
  obtain ⟨h, -⟩ | ⟨h, -⟩ := hagainst <;> cases h

/-- R204: so the epilogue is the edge detector's, which does nothing before the interrupts are enabled. -/
theorem controllerInv_epilogue (hs : s.controllerInv) : s.epilogue.controllerInv := by
  have ⟨_, _, hf, _, _, _, _, _, _, hfree, hev⟩ := hs
  have hepi : s.epilogue = s.edgeDetect := by
    simp [State.epilogue, hf, (contendedPin_eq_none_iff_not_opposed s).2 (not_opposed_of_controllerInv hs)]
  obtain ⟨n, v, d, hdet, hn⟩ := edgeDetect_cases s
  rw [hepi, hdet]
  refine controllerInv_of_sameMux hs ⟨rfl, rfl, rfl, rfl, rfl, rfl⟩ rfl hf hfree fun hb => ?_
  obtain ⟨hien, htick, hedge⟩ := hev hb
  obtain ⟨rfl, -⟩ | ⟨hien', -⟩ := hn
  · exact ⟨hien, htick, hedge⟩
  · exact absurd (hien.symm.trans hien') nofun

/-- R160, R166, R183: LOOP lacks a step only after its poll, or inside a wait before its end. -/
theorem loop_waits (hf : s.fault = .none) (hctl : s.lp.ofController = true) (h : s.loopEnabled = false) :
    s.lp = .s0 ∧ s.polled = true ∨ s.lp.isWait = true ∧ s.now < s.waitUntil := by
  cases hlp : s.lp
  case s0 => exact .inl ⟨rfl, by simpa [State.loopEnabled, hf, hlp] using h⟩
  case a5w | b3w | b5w | b9w => exact .inr ⟨rfl, by simpa [State.loopEnabled, hf, hlp] using h⟩
  case cmd | done => rw [hlp] at hctl; cases hctl
  all_goals simp [State.loopEnabled, hf, hlp] at h

/-- R163: some agent has a step. Where LOOP waits a handler is pending, or time may advance. -/
theorem exists_enabled (hs : s.controllerInv) : ∃ m ∈ agentMoves, s.enabled m = true := by
  obtain ⟨-, -, hf, hctl, -⟩ := hs
  cases hloop : s.loopEnabled with
  | true => exact ⟨.loop, by decide, hloop⟩
  | false =>
    cases htick : s.tickPending with
    | true => exact ⟨.tick, by decide, by simp [State.enabled, hf, htick]⟩
    | false =>
      obtain hedge | hedge := Nat.eq_zero_or_pos s.edgePending
      · refine ⟨.advance, by decide, advanceEnabled_iff.2 ⟨hf, htick, hedge, ?_⟩⟩
        obtain h | ⟨hwait, hlt⟩ := loop_waits hf hctl hloop
        · exact .inl h
        · exact .inr (.inl ⟨hwait, Nat.le_add_right_of_le hlt⟩)
      · exact ⟨.edge, by decide, by simp [State.enabled, hf, hedge]⟩

/-- Entry 2: where some agent has a step, a move that has one is chosen. -/
theorem exists_chosen (h : ∃ m ∈ agentMoves, s.enabled m = true) (want : Move) :
    ∃ m, s.chosen want = some m ∧ s.enabled m = true := by
  have hfound : ∃ m, s.chosen want = some m := by
    unfold State.chosen
    split
    · exact ⟨want, rfl⟩
    · exact Option.isSome_iff_exists.1 (List.find?_isSome.2 h)
  obtain ⟨m, hm⟩ := hfound
  exact ⟨m, hm, enabled_of_chosen hm⟩

/-- Choosing the move touches nothing the invariant speaks of (entry 1). -/
theorem controllerInv_wanted (hs : s.controllerInv) : s.wanted.2.controllerInv := by
  rw [wanted_snd]
  exact hs

end Step

/-- Settles O48: some move is chosen, it answers a state of the invariant, and the epilogue finds no contention. -/
theorem controllerNeverFaults : Obligations.ControllerNeverFaults := by
  unfold Obligations.ControllerNeverFaults
  intro s hs hduty
  have hw := controllerInv_wanted hs
  obtain ⟨m, hm, he⟩ := exists_chosen (exists_enabled hw) s.wanted.1
  obtain ⟨u, ha, hu⟩ := act_of_controllerInv hw he (hduty m hm)
  obtain ⟨hv, -, hf, -⟩ := hs
  exact ⟨u.epilogue, step_of_taken hv hf hm ha, controllerInv_epilogue hu⟩

end Sys2Proof.Machine
end

section
/-! PROOF. `BOOT5` (R232): one level of the button line is recorded, and it is the one the step's own edge detector finds. -/

namespace Sys2Proof.Machine

section Boot

variable {s : State} {v : Bool}

/-- R232, R120: where the button line's level is determined, that is what `BOOT5` records. -/
theorem enableInterrupts_of_level (hl : s.lineLevel s.cfg.pinButton = some v) :
    s.enableInterrupts = { s with ien := true, btnLast := v, lp := .s0 } := by
  rw [State.enableInterrupts, sample_of_level hl]

/-- R160, R232: LOOP's step at `BOOT5`. -/
theorem loopStep_of_boot5 (hf : s.fault = .none) (hlp : s.lp = .boot5) : s.loopStep = .next s.enableInterrupts := by
  rw [loopStep_of_unguarded hf hlp rfl, State.phaseStep, hlp]

/-- R145: a level that is determined and already recorded is no transition. -/
theorem edgeDetect_of_recorded (hl : s.lineLevel s.cfg.pinButton = some s.btnLast) : s.edgeDetect = s := by
  cases hi : s.ien with
  | false => exact edgeDetect_of_ien_false hi
  | true => rw [edgeDetect_of_levelGives hi (.inl ⟨hl, rfl⟩), if_pos rfl]

end Boot

/-- Settles O35: the step leaves the lines alone, so its edge detector finds the level just recorded; the pull-up determines it. -/
theorem bootEnablesInterrupts : Obligations.BootEnablesInterrupts := by
  unfold Obligations.BootEnablesInterrupts
  intro s hf hlp
  refine ⟨fun v hl => ⟨?_, ?_⟩, fun hd ho => ?_⟩
  · rw [loopStep_of_boot5 hf hlp, enableInterrupts_of_level hl]
  · rw [edgeDetect_of_recorded]
    exact hl
  · rw [lineLevel_of_pullUp hd ho, ← decide_not]

end Sys2Proof.Machine
end
